-- ==== Sys2Proof/Word.lean ====
section
/-! DEFINITION. The widths of the machine: words, halfwords, bytes and register numbers (R6, R21, R60). -/

namespace Sys2Proof

/-- A 32-bit word: a general register, a status register, an address (R6 `XLEN`, `ALEN`). -/
abbrev Word := BitVec 32

/-- A 16-bit halfword: a Thumb instruction, a halfword in memory (R6 `ILEN_THUMB`, R60). -/
abbrev Half := BitVec 16

/-- A byte, the unit of addressing (R60). -/
abbrev Byte := BitVec 8

/-- The four-bit number that names a general register in an ARM instruction (R21). -/
abbrev Reg := BitVec 4

/-- The three-bit number that names one of R0 to R7 in a Thumb instruction (R529). -/
abbrev LowReg := BitVec 3

/-- The four-bit number of a coprocessor or of one of its registers (R39). -/
abbrev CpNum := BitVec 4

end Sys2Proof
end

