-- ==== Sys2Proof/Syntax.lean ====
section
/-! DEFINITION. The instructions: one constructor for each row of spec/opcode_table.json, in the table's order (ARM rows
first, then Thumb rows, whose constructors begin with `t`). A constructor's arguments are the fields of its row from the
highest bit to the lowest; should-be-zero and should-be-one bits are kept as fields (`sbz`, `sbo`), and
`Instr.wf` demands their values (R9, R105; log entry 10). -/

namespace Sys2Proof

/-- The conditions of R172; 1111 is not one of them (R173). -/
inductive Cond where
  | eq | ne | cs | cc | mi | pl | vs | vc | hi | ls | ge | lt | gt | le | al
deriving DecidableEq, Repr

/-- The shift types of `shf`, bits [6:5] (R151). -/
inductive Shift where
  | lsl | lsr | asr | ror
deriving DecidableEq, Repr

/-- The instruction set of architecture v5TE. -/
inductive Instr where
  /-- PLD, immediate offset (R200, R110). -/
  | pldImm (u : Bool) (rn : Reg) (imm12 : BitVec 12)
  /-- PLD, register offset (R200, R110). -/
  | pldReg (u : Bool) (rn : Reg) (shiftImm : BitVec 5) (sh : Shift) (rm : Reg)
  /-- BLX (immediate) (R422, R131). -/
  | blxImm (h : Bool) (offset24 : BitVec 24)
  /-- Undefined: coprocessor extension space with cond = 1111 (R432). -/
  | undefCoprocExtUncond (n : Bool) (low : BitVec 21)
  /-- LDC2 (R448). -/
  | ldc2 (p u n w : Bool) (rn : Reg) (crd cp : CpNum) (offset8 : BitVec 8)
  /-- STC2 (R448). -/
  | stc2 (p u n w : Bool) (rn : Reg) (crd cp : CpNum) (offset8 : BitVec 8)
  /-- CDP2 (R448). -/
  | cdp2 (opcode1 : BitVec 4) (crn crd cp : CpNum) (opcode2 : BitVec 3) (crm : CpNum)
  /-- MCR2 (R448). -/
  | mcr2 (opcode1 : BitVec 3) (crn : CpNum) (rd : Reg) (cp : CpNum) (opcode2 : BitVec 3) (crm : CpNum)
  /-- MRC2 (R448). -/
  | mrc2 (opcode1 : BitVec 3) (crn : CpNum) (rd : Reg) (cp : CpNum) (opcode2 : BitVec 3) (crm : CpNum)
  /-- Undefined: row 17 of the class table (R430). -/
  | undefSwiUncond (low : BitVec 24)
  /-- Undefined: row 21 of the class table (R430). -/
  | undefBlockUncond (low : BitVec 25)
  /-- Undefined: any other word with bits [31:28] = 1111 (R432). -/
  | undefUncond (low : BitVec 28)
  /-- CLZ (R201, R111). -/
  | clz (c : Cond) (sbo1 : BitVec 4) (rd : Reg) (sbo2 : BitVec 4) (rm : Reg)
  /-- BKPT (R203, R112). -/
  | bkpt (c : Cond) (immHi : BitVec 12) (immLo : BitVec 4)
  /-- BX (R204, R113). -/
  | bx (c : Cond) (sbo : BitVec 12) (rm : Reg)
  /-- BLX (register) (R205, R113). -/
  | blxReg (c : Cond) (sbo : BitVec 12) (rm : Reg)
  /-- SWP (R221, R114). -/
  | swp (c : Cond) (rn rd : Reg) (sbz : BitVec 4) (rm : Reg)
  /-- SWPB (R222, R114). -/
  | swpb (c : Cond) (rn rd : Reg) (sbz : BitVec 4) (rm : Reg)
  /-- QADD (R225, R115). -/
  | qadd (c : Cond) (rn rd : Reg) (sbz : BitVec 4) (rm : Reg)
  /-- QSUB (R226, R115). -/
  | qsub (c : Cond) (rn rd : Reg) (sbz : BitVec 4) (rm : Reg)
  /-- QDADD (R227, R115). -/
  | qdadd (c : Cond) (rn rd : Reg) (sbz : BitVec 4) (rm : Reg)
  /-- QDSUB (R228, R115). -/
  | qdsub (c : Cond) (rn rd : Reg) (sbz : BitVec 4) (rm : Reg)
  /-- MUL (R240, R116). -/
  | mul (c : Cond) (sf : Bool) (rd : Reg) (sbz : BitVec 4) (rs rm : Reg)
  /-- MLA (R241, R116). -/
  | mla (c : Cond) (sf : Bool) (rd rn rs rm : Reg)
  /-- UMULL (R242, R117). -/
  | umull (c : Cond) (sf : Bool) (rdHi rdLo rs rm : Reg)
  /-- UMLAL (R243, R117). -/
  | umlal (c : Cond) (sf : Bool) (rdHi rdLo rs rm : Reg)
  /-- SMULL (R244, R117). -/
  | smull (c : Cond) (sf : Bool) (rdHi rdLo rs rm : Reg)
  /-- SMLAL (R245, R117). -/
  | smlal (c : Cond) (sf : Bool) (rdHi rdLo rs rm : Reg)
  /-- Undefined: bits [27:25] = 000 and [7:4] = 1001, neither multiply nor swap (R433 (a), R103). -/
  | undefArith (c : Cond) (op : BitVec 5) (mid : BitVec 12) (low : BitVec 4)
  /-- SMLA<x><y> (R250, R121); `x` is bit 5, `y` bit 6. -/
  | smlaxy (c : Cond) (rd rn rs : Reg) (y x : Bool) (rm : Reg)
  /-- SMLAW<y> (R251, R121). -/
  | smlawy (c : Cond) (rd rn rs : Reg) (y : Bool) (rm : Reg)
  /-- SMULW<y> (R252, R121). -/
  | smulwy (c : Cond) (rd : Reg) (sbz : BitVec 4) (rs : Reg) (y : Bool) (rm : Reg)
  /-- SMLAL<x><y> (R253, R121). -/
  | smlalxy (c : Cond) (rdHi rdLo rs : Reg) (y x : Bool) (rm : Reg)
  /-- SMUL<x><y> (R254, R121). -/
  | smulxy (c : Cond) (rd : Reg) (sbz : BitVec 4) (rs : Reg) (y x : Bool) (rm : Reg)
  /-- MSR, register form (R272, R118). -/
  | msrReg (c : Cond) (r : Bool) (mask sbo sbzHi : BitVec 4) (sbzLo : BitVec 2) (rm : Reg)
  /-- STRH, register offset (R292, R119). -/
  | strhReg (c : Cond) (p u w : Bool) (rn rd : Reg) (sbz : BitVec 4) (rm : Reg)
  /-- LDRH, register offset (R293, R119). -/
  | ldrhReg (c : Cond) (p u w : Bool) (rn rd : Reg) (sbz : BitVec 4) (rm : Reg)
  /-- LDRSB, register offset (R294, R120). -/
  | ldrsbReg (c : Cond) (p u w : Bool) (rn rd : Reg) (sbz : BitVec 4) (rm : Reg)
  /-- LDRSH, register offset (R295, R120). -/
  | ldrshReg (c : Cond) (p u w : Bool) (rn rd : Reg) (sbz : BitVec 4) (rm : Reg)
  /-- STRH, immediate offset (R292, R122). -/
  | strhImm (c : Cond) (p u w : Bool) (rn rd : Reg) (offHi offLo : BitVec 4)
  /-- LDRH, immediate offset (R293, R122). -/
  | ldrhImm (c : Cond) (p u w : Bool) (rn rd : Reg) (offHi offLo : BitVec 4)
  /-- LDRD, register offset (R296, R123). -/
  | ldrdReg (c : Cond) (p u w : Bool) (rn rd : Reg) (sbz : BitVec 4) (rm : Reg)
  /-- STRD, register offset (R297, R123). -/
  | strdReg (c : Cond) (p u w : Bool) (rn rd : Reg) (sbz : BitVec 4) (rm : Reg)
  /-- LDRD, immediate offset (R296, R124). -/
  | ldrdImm (c : Cond) (p u w : Bool) (rn rd : Reg) (offHi offLo : BitVec 4)
  /-- STRD, immediate offset (R297, R124). -/
  | strdImm (c : Cond) (p u w : Bool) (rn rd : Reg) (offHi offLo : BitVec 4)
  /-- LDRSB, immediate offset (R294, R125). -/
  | ldrsbImm (c : Cond) (p u w : Bool) (rn rd : Reg) (offHi offLo : BitVec 4)
  /-- LDRSH, immediate offset (R295, R125). -/
  | ldrshImm (c : Cond) (p u w : Bool) (rn rd : Reg) (offHi offLo : BitVec 4)
  /-- MRS (R270, R127). -/
  | mrs (c : Cond) (r : Bool) (sbo : BitVec 4) (rd : Reg) (sbz : BitVec 12)
  /-- MSR, immediate form (R271, R128). -/
  | msrImm (c : Cond) (r : Bool) (mask sbo rotate : BitVec 4) (imm8 : BitVec 8)
  /-- Undefined: row 20 of the class table (R430). -/
  | undefImmCompare (c : Cond) (r : Bool) (low : BitVec 20)
  /-- Undefined: compare code points with S = 0 that no earlier row takes (R433 (b), R346). -/
  | undefCompare (c : Cond) (op : BitVec 2) (low : BitVec 20)
  /-- CDP (R441, R132). -/
  | cdp (c : Cond) (opcode1 : BitVec 4) (crn crd cp : CpNum) (opcode2 : BitVec 3) (crm : CpNum)
  /-- MCR (R442, R133). -/
  | mcr (c : Cond) (opcode1 : BitVec 3) (crn : CpNum) (rd : Reg) (cp : CpNum) (opcode2 : BitVec 3) (crm : CpNum)
  /-- MRC (R443, R133). -/
  | mrc (c : Cond) (opcode1 : BitVec 3) (crn : CpNum) (rd : Reg) (cp : CpNum) (opcode2 : BitVec 3) (crm : CpNum)
  /-- AND, register shift (R330, R134). -/
  | andRegShift (c : Cond) (sf : Bool) (rn rd rs : Reg) (sh : Shift) (rm : Reg)
  /-- EOR, register shift (R331, R134). -/
  | eorRegShift (c : Cond) (sf : Bool) (rn rd rs : Reg) (sh : Shift) (rm : Reg)
  /-- SUB, register shift (R332, R134). -/
  | subRegShift (c : Cond) (sf : Bool) (rn rd rs : Reg) (sh : Shift) (rm : Reg)
  /-- RSB, register shift (R333, R134). -/
  | rsbRegShift (c : Cond) (sf : Bool) (rn rd rs : Reg) (sh : Shift) (rm : Reg)
  /-- ADD, register shift (R334, R134). -/
  | addRegShift (c : Cond) (sf : Bool) (rn rd rs : Reg) (sh : Shift) (rm : Reg)
  /-- ADC, register shift (R335, R134). -/
  | adcRegShift (c : Cond) (sf : Bool) (rn rd rs : Reg) (sh : Shift) (rm : Reg)
  /-- SBC, register shift (R336, R134). -/
  | sbcRegShift (c : Cond) (sf : Bool) (rn rd rs : Reg) (sh : Shift) (rm : Reg)
  /-- RSC, register shift (R337, R134). -/
  | rscRegShift (c : Cond) (sf : Bool) (rn rd rs : Reg) (sh : Shift) (rm : Reg)
  /-- TST, register shift (R338, R134). -/
  | tstRegShift (c : Cond) (rn : Reg) (sbz : BitVec 4) (rs : Reg) (sh : Shift) (rm : Reg)
  /-- TEQ, register shift (R339, R134). -/
  | teqRegShift (c : Cond) (rn : Reg) (sbz : BitVec 4) (rs : Reg) (sh : Shift) (rm : Reg)
  /-- CMP, register shift (R340, R134). -/
  | cmpRegShift (c : Cond) (rn : Reg) (sbz : BitVec 4) (rs : Reg) (sh : Shift) (rm : Reg)
  /-- CMN, register shift (R341, R134). -/
  | cmnRegShift (c : Cond) (rn : Reg) (sbz : BitVec 4) (rs : Reg) (sh : Shift) (rm : Reg)
  /-- ORR, register shift (R342, R134). -/
  | orrRegShift (c : Cond) (sf : Bool) (rn rd rs : Reg) (sh : Shift) (rm : Reg)
  /-- MOV, register shift (R343, R134). -/
  | movRegShift (c : Cond) (sf : Bool) (sbz : BitVec 4) (rd rs : Reg) (sh : Shift) (rm : Reg)
  /-- BIC, register shift (R344, R134). -/
  | bicRegShift (c : Cond) (sf : Bool) (rn rd rs : Reg) (sh : Shift) (rm : Reg)
  /-- MVN, register shift (R345, R134). -/
  | mvnRegShift (c : Cond) (sf : Bool) (sbz : BitVec 4) (rd rs : Reg) (sh : Shift) (rm : Reg)
  /-- AND, immediate shift (R330, R135). -/
  | andImmShift (c : Cond) (sf : Bool) (rn rd : Reg) (shiftImm : BitVec 5) (sh : Shift) (rm : Reg)
  /-- EOR, immediate shift (R331, R135). -/
  | eorImmShift (c : Cond) (sf : Bool) (rn rd : Reg) (shiftImm : BitVec 5) (sh : Shift) (rm : Reg)
  /-- SUB, immediate shift (R332, R135). -/
  | subImmShift (c : Cond) (sf : Bool) (rn rd : Reg) (shiftImm : BitVec 5) (sh : Shift) (rm : Reg)
  /-- RSB, immediate shift (R333, R135). -/
  | rsbImmShift (c : Cond) (sf : Bool) (rn rd : Reg) (shiftImm : BitVec 5) (sh : Shift) (rm : Reg)
  /-- ADD, immediate shift (R334, R135). -/
  | addImmShift (c : Cond) (sf : Bool) (rn rd : Reg) (shiftImm : BitVec 5) (sh : Shift) (rm : Reg)
  /-- ADC, immediate shift (R335, R135). -/
  | adcImmShift (c : Cond) (sf : Bool) (rn rd : Reg) (shiftImm : BitVec 5) (sh : Shift) (rm : Reg)
  /-- SBC, immediate shift (R336, R135). -/
  | sbcImmShift (c : Cond) (sf : Bool) (rn rd : Reg) (shiftImm : BitVec 5) (sh : Shift) (rm : Reg)
  /-- RSC, immediate shift (R337, R135). -/
  | rscImmShift (c : Cond) (sf : Bool) (rn rd : Reg) (shiftImm : BitVec 5) (sh : Shift) (rm : Reg)
  /-- TST, immediate shift (R338, R135). -/
  | tstImmShift (c : Cond) (rn : Reg) (sbz : BitVec 4) (shiftImm : BitVec 5) (sh : Shift) (rm : Reg)
  /-- TEQ, immediate shift (R339, R135). -/
  | teqImmShift (c : Cond) (rn : Reg) (sbz : BitVec 4) (shiftImm : BitVec 5) (sh : Shift) (rm : Reg)
  /-- CMP, immediate shift (R340, R135). -/
  | cmpImmShift (c : Cond) (rn : Reg) (sbz : BitVec 4) (shiftImm : BitVec 5) (sh : Shift) (rm : Reg)
  /-- CMN, immediate shift (R341, R135). -/
  | cmnImmShift (c : Cond) (rn : Reg) (sbz : BitVec 4) (shiftImm : BitVec 5) (sh : Shift) (rm : Reg)
  /-- ORR, immediate shift (R342, R135). -/
  | orrImmShift (c : Cond) (sf : Bool) (rn rd : Reg) (shiftImm : BitVec 5) (sh : Shift) (rm : Reg)
  /-- MOV, immediate shift (R343, R135). -/
  | movImmShift (c : Cond) (sf : Bool) (sbz : BitVec 4) (rd : Reg) (shiftImm : BitVec 5) (sh : Shift) (rm : Reg)
  /-- BIC, immediate shift (R344, R135). -/
  | bicImmShift (c : Cond) (sf : Bool) (rn rd : Reg) (shiftImm : BitVec 5) (sh : Shift) (rm : Reg)
  /-- MVN, immediate shift (R345, R135). -/
  | mvnImmShift (c : Cond) (sf : Bool) (sbz : BitVec 4) (rd : Reg) (shiftImm : BitVec 5) (sh : Shift) (rm : Reg)
  /-- STRT, register offset (R381, R136). -/
  | strtReg (c : Cond) (u : Bool) (rn rd : Reg) (shiftImm : BitVec 5) (sh : Shift) (rm : Reg)
  /-- LDRT, register offset (R379, R136). -/
  | ldrtReg (c : Cond) (u : Bool) (rn rd : Reg) (shiftImm : BitVec 5) (sh : Shift) (rm : Reg)
  /-- STRBT, register offset (R382, R136). -/
  | strbtReg (c : Cond) (u : Bool) (rn rd : Reg) (shiftImm : BitVec 5) (sh : Shift) (rm : Reg)
  /-- LDRBT, register offset (R380, R136). -/
  | ldrbtReg (c : Cond) (u : Bool) (rn rd : Reg) (shiftImm : BitVec 5) (sh : Shift) (rm : Reg)
  /-- STR, register offset (R377, R136). -/
  | strReg (c : Cond) (p u w : Bool) (rn rd : Reg) (shiftImm : BitVec 5) (sh : Shift) (rm : Reg)
  /-- LDR, register offset (R375, R136). -/
  | ldrReg (c : Cond) (p u w : Bool) (rn rd : Reg) (shiftImm : BitVec 5) (sh : Shift) (rm : Reg)
  /-- STRB, register offset (R378, R136). -/
  | strbReg (c : Cond) (p u w : Bool) (rn rd : Reg) (shiftImm : BitVec 5) (sh : Shift) (rm : Reg)
  /-- LDRB, register offset (R376, R136). -/
  | ldrbReg (c : Cond) (p u w : Bool) (rn rd : Reg) (shiftImm : BitVec 5) (sh : Shift) (rm : Reg)
  /-- Undefined: row 28 of the class table (R430). -/
  | undefMedia (c : Cond) (high : BitVec 20) (low : BitVec 4)
  /-- SWI (R425, R138). -/
  | swi (c : Cond) (number : BitVec 24)
  /-- AND, immediate (R330, R139). -/
  | andImm (c : Cond) (sf : Bool) (rn rd : Reg) (rotate : BitVec 4) (imm8 : BitVec 8)
  /-- EOR, immediate (R331, R139). -/
  | eorImm (c : Cond) (sf : Bool) (rn rd : Reg) (rotate : BitVec 4) (imm8 : BitVec 8)
  /-- SUB, immediate (R332, R139). -/
  | subImm (c : Cond) (sf : Bool) (rn rd : Reg) (rotate : BitVec 4) (imm8 : BitVec 8)
  /-- RSB, immediate (R333, R139). -/
  | rsbImm (c : Cond) (sf : Bool) (rn rd : Reg) (rotate : BitVec 4) (imm8 : BitVec 8)
  /-- ADD, immediate (R334, R139). -/
  | addImm (c : Cond) (sf : Bool) (rn rd : Reg) (rotate : BitVec 4) (imm8 : BitVec 8)
  /-- ADC, immediate (R335, R139). -/
  | adcImm (c : Cond) (sf : Bool) (rn rd : Reg) (rotate : BitVec 4) (imm8 : BitVec 8)
  /-- SBC, immediate (R336, R139). -/
  | sbcImm (c : Cond) (sf : Bool) (rn rd : Reg) (rotate : BitVec 4) (imm8 : BitVec 8)
  /-- RSC, immediate (R337, R139). -/
  | rscImm (c : Cond) (sf : Bool) (rn rd : Reg) (rotate : BitVec 4) (imm8 : BitVec 8)
  /-- TST, immediate (R338, R139). -/
  | tstImm (c : Cond) (rn : Reg) (sbz rotate : BitVec 4) (imm8 : BitVec 8)
  /-- TEQ, immediate (R339, R139). -/
  | teqImm (c : Cond) (rn : Reg) (sbz rotate : BitVec 4) (imm8 : BitVec 8)
  /-- CMP, immediate (R340, R139). -/
  | cmpImm (c : Cond) (rn : Reg) (sbz rotate : BitVec 4) (imm8 : BitVec 8)
  /-- CMN, immediate (R341, R139). -/
  | cmnImm (c : Cond) (rn : Reg) (sbz rotate : BitVec 4) (imm8 : BitVec 8)
  /-- ORR, immediate (R342, R139). -/
  | orrImm (c : Cond) (sf : Bool) (rn rd : Reg) (rotate : BitVec 4) (imm8 : BitVec 8)
  /-- MOV, immediate (R343, R139). -/
  | movImm (c : Cond) (sf : Bool) (sbz : BitVec 4) (rd : Reg) (rotate : BitVec 4) (imm8 : BitVec 8)
  /-- BIC, immediate (R344, R139). -/
  | bicImm (c : Cond) (sf : Bool) (rn rd : Reg) (rotate : BitVec 4) (imm8 : BitVec 8)
  /-- MVN, immediate (R345, R139). -/
  | mvnImm (c : Cond) (sf : Bool) (sbz : BitVec 4) (rd : Reg) (rotate : BitVec 4) (imm8 : BitVec 8)
  /-- STRT, immediate offset (R381, R140). -/
  | strtImm (c : Cond) (u : Bool) (rn rd : Reg) (imm12 : BitVec 12)
  /-- LDRT, immediate offset (R379, R140). -/
  | ldrtImm (c : Cond) (u : Bool) (rn rd : Reg) (imm12 : BitVec 12)
  /-- STRBT, immediate offset (R382, R140). -/
  | strbtImm (c : Cond) (u : Bool) (rn rd : Reg) (imm12 : BitVec 12)
  /-- LDRBT, immediate offset (R380, R140). -/
  | ldrbtImm (c : Cond) (u : Bool) (rn rd : Reg) (imm12 : BitVec 12)
  /-- STR, immediate offset (R377, R140). -/
  | strImm (c : Cond) (p u w : Bool) (rn rd : Reg) (imm12 : BitVec 12)
  /-- LDR, immediate offset (R375, R140). -/
  | ldrImm (c : Cond) (p u w : Bool) (rn rd : Reg) (imm12 : BitVec 12)
  /-- STRB, immediate offset (R378, R140). -/
  | strbImm (c : Cond) (p u w : Bool) (rn rd : Reg) (imm12 : BitVec 12)
  /-- LDRB, immediate offset (R376, R140). -/
  | ldrbImm (c : Cond) (p u w : Bool) (rn rd : Reg) (imm12 : BitVec 12)
  /-- LDM (1) (R394, R141). -/
  | ldm1 (c : Cond) (p u w : Bool) (rn : Reg) (list : BitVec 16)
  /-- LDM (2), User registers (R395, R141). -/
  | ldm2 (c : Cond) (p u w : Bool) (rn : Reg) (list : BitVec 15)
  /-- LDM (3), exception return (R398, R141). -/
  | ldm3 (c : Cond) (p u w : Bool) (rn : Reg) (list : BitVec 15)
  /-- STM (1) (R396, R141). -/
  | stm1 (c : Cond) (p u w : Bool) (rn : Reg) (list : BitVec 16)
  /-- STM (2), User registers (R397, R141). -/
  | stm2 (c : Cond) (p u w : Bool) (rn : Reg) (list : BitVec 16)
  /-- B (R420, R142). -/
  | b (c : Cond) (offset24 : BitVec 24)
  /-- BL (R421, R142). -/
  | bl (c : Cond) (offset24 : BitVec 24)
  /-- Undefined: coprocessor extension space (R449). -/
  | undefCoprocExt (c : Cond) (low : BitVec 21)
  /-- MCRR (R446, R143). -/
  | mcrr (c : Cond) (rn rd : Reg) (cp : CpNum) (opcode : BitVec 4) (crm : CpNum)
  /-- MRRC (R447, R143). -/
  | mrrc (c : Cond) (rn rd : Reg) (cp : CpNum) (opcode : BitVec 4) (crm : CpNum)
  /-- LDC (R444, R143). -/
  | ldc (c : Cond) (p u n w : Bool) (rn : Reg) (crd cp : CpNum) (offset8 : BitVec 8)
  /-- STC (R445, R143). -/
  | stc (c : Cond) (p u n w : Bool) (rn : Reg) (crd cp : CpNum) (offset8 : BitVec 8)
  /-- Thumb ADD (3) (R466). -/
  | tAdd3 (rm rn rd : LowReg)
  /-- Thumb SUB (3) (R467). -/
  | tSub3 (rm rn rd : LowReg)
  /-- Thumb ADD (1) (R468). -/
  | tAdd1 (imm3 : BitVec 3) (rn rd : LowReg)
  /-- Thumb SUB (1) (R469). -/
  | tSub1 (imm3 : BitVec 3) (rn rd : LowReg)
  /-- Thumb LSL (1) (R463). -/
  | tLsl1 (imm5 : BitVec 5) (rm rd : LowReg)
  /-- Thumb LSR (1) (R464). -/
  | tLsr1 (imm5 : BitVec 5) (rm rd : LowReg)
  /-- Thumb ASR (1) (R465). -/
  | tAsr1 (imm5 : BitVec 5) (rm rd : LowReg)
  /-- Thumb MOV (1) (R470). -/
  | tMov1 (rd : LowReg) (imm8 : BitVec 8)
  /-- Thumb CMP (1) (R471). -/
  | tCmp1 (rn : LowReg) (imm8 : BitVec 8)
  /-- Thumb ADD (2) (R472). -/
  | tAdd2 (rd : LowReg) (imm8 : BitVec 8)
  /-- Thumb SUB (2) (R473). -/
  | tSub2 (rd : LowReg) (imm8 : BitVec 8)
  /-- Thumb AND (R482, R531). -/
  | tAnd (rm rd : LowReg)
  /-- Thumb EOR (R483, R531). -/
  | tEor (rm rd : LowReg)
  /-- Thumb LSL (2) (R484, R531). -/
  | tLsl2 (rm rd : LowReg)
  /-- Thumb LSR (2) (R485, R531). -/
  | tLsr2 (rm rd : LowReg)
  /-- Thumb ASR (2) (R486, R531). -/
  | tAsr2 (rm rd : LowReg)
  /-- Thumb ADC (R487, R531). -/
  | tAdc (rm rd : LowReg)
  /-- Thumb SBC (R488, R531). -/
  | tSbc (rm rd : LowReg)
  /-- Thumb ROR (R489, R531). -/
  | tRor (rm rd : LowReg)
  /-- Thumb TST (R490, R531). -/
  | tTst (rm rd : LowReg)
  /-- Thumb NEG (R491, R531). -/
  | tNeg (rm rd : LowReg)
  /-- Thumb CMP (2) (R492, R531). -/
  | tCmp2 (rm rd : LowReg)
  /-- Thumb CMN (R493, R531). -/
  | tCmn (rm rd : LowReg)
  /-- Thumb ORR (R494, R531). -/
  | tOrr (rm rd : LowReg)
  /-- Thumb MUL (R495, R531). -/
  | tMul (rm rd : LowReg)
  /-- Thumb BIC (R496, R531). -/
  | tBic (rm rd : LowReg)
  /-- Thumb MVN (R497, R531). -/
  | tMvn (rm rd : LowReg)
  /-- Thumb ADD (4) (R474, R530). -/
  | tAdd4 (h1 h2 : Bool) (rm rd : LowReg)
  /-- Thumb CMP (3) (R475, R530). -/
  | tCmp3 (h1 h2 : Bool) (rm rd : LowReg)
  /-- Thumb MOV (3) (R477, R530). -/
  | tMov3 (h1 h2 : Bool) (rm rd : LowReg)
  /-- Thumb BX (R478). -/
  | tBx (h2 : Bool) (rm : LowReg) (sbz : BitVec 3)
  /-- Thumb BLX (2) (R479). -/
  | tBlx2 (h2 : Bool) (rm : LowReg) (sbz : BitVec 3)
  /-- Thumb LDR (3), pc-relative (R476). -/
  | tLdr3 (rd : LowReg) (imm8 : BitVec 8)
  /-- Thumb STR (2) (R498, R532). -/
  | tStr2 (rm rn rd : LowReg)
  /-- Thumb STRH (2) (R499, R532). -/
  | tStrh2 (rm rn rd : LowReg)
  /-- Thumb STRB (2) (R500, R532). -/
  | tStrb2 (rm rn rd : LowReg)
  /-- Thumb LDRSB (R501, R532). -/
  | tLdrsb (rm rn rd : LowReg)
  /-- Thumb LDR (2) (R502, R532). -/
  | tLdr2 (rm rn rd : LowReg)
  /-- Thumb LDRH (2) (R503, R532). -/
  | tLdrh2 (rm rn rd : LowReg)
  /-- Thumb LDRB (2) (R504, R532). -/
  | tLdrb2 (rm rn rd : LowReg)
  /-- Thumb LDRSH (R505, R532). -/
  | tLdrsh (rm rn rd : LowReg)
  /-- Thumb STR (1) (R506, R533). -/
  | tStr1 (imm5 : BitVec 5) (rn rd : LowReg)
  /-- Thumb LDR (1) (R507, R533). -/
  | tLdr1 (imm5 : BitVec 5) (rn rd : LowReg)
  /-- Thumb STRB (1) (R508, R533). -/
  | tStrb1 (imm5 : BitVec 5) (rn rd : LowReg)
  /-- Thumb LDRB (1) (R509, R533). -/
  | tLdrb1 (imm5 : BitVec 5) (rn rd : LowReg)
  /-- Thumb STRH (1) (R510, R533). -/
  | tStrh1 (imm5 : BitVec 5) (rn rd : LowReg)
  /-- Thumb LDRH (1) (R511, R533). -/
  | tLdrh1 (imm5 : BitVec 5) (rn rd : LowReg)
  /-- Thumb STR (3), sp-relative (R512). -/
  | tStr3 (rd : LowReg) (imm8 : BitVec 8)
  /-- Thumb LDR (4), sp-relative (R513). -/
  | tLdr4 (rd : LowReg) (imm8 : BitVec 8)
  /-- Thumb ADD (5), address from pc (R481). -/
  | tAdd5 (rd : LowReg) (imm8 : BitVec 8)
  /-- Thumb ADD (6), address from sp (R480). -/
  | tAdd6 (rd : LowReg) (imm8 : BitVec 8)
  /-- Thumb ADD (7) (R514). -/
  | tAdd7 (imm7 : BitVec 7)
  /-- Thumb SUB (4) (R515). -/
  | tSub4 (imm7 : BitVec 7)
  /-- Thumb PUSH (R516). -/
  | tPush (r : Bool) (list : BitVec 8)
  /-- Thumb POP (R517). -/
  | tPop (r : Bool) (list : BitVec 8)
  /-- Thumb BKPT (R518). -/
  | tBkpt (imm8 : BitVec 8)
  /-- Thumb Undefined: 1011 with another h[11:8] (R528). -/
  | tUndefMisc (op : BitVec 4) (low : BitVec 8)
  /-- Thumb STMIA (R519). -/
  | tStmia (rn : LowReg) (list : BitVec 8)
  /-- Thumb LDMIA (R520). -/
  | tLdmia (rn : LowReg) (list : BitVec 8)
  /-- Thumb Undefined: 1101 1110 (R522). -/
  | tUndefCond (imm8 : BitVec 8)
  /-- Thumb SWI (R523). -/
  | tSwi (imm8 : BitVec 8)
  /-- Thumb B (1), conditional (R521). -/
  | tB1 (c : Cond) (imm8 : BitVec 8)
  /-- Thumb B (2) (R524). -/
  | tB2 (imm11 : BitVec 11)
  /-- Thumb Undefined: BLX suffix with bit 0 = 1 (R527, R528). -/
  | tUndefBlx (high : BitVec 10)
  /-- Thumb BLX (1) suffix (R527); `high` is offset11[10:1]. -/
  | tBlx1Suffix (high : BitVec 10)
  /-- Thumb BL/BLX prefix (R525). -/
  | tBlPrefix (offset11 : BitVec 11)
  /-- Thumb BL suffix (R526). -/
  | tBlSuffix (offset11 : BitVec 11)
deriving DecidableEq, Repr

end Sys2Proof
end

