-- ==== Sys2Proof/Decode.lean ====
section
/-! DEFINITION. The decoder (R100 to R109, R461), total on words, halfwords and bytes, and the encoder. Every word is
some instruction, since the words the spec calls Undefined are rows of the table: what the decoder rejects is a fetch of
too few bytes. No bit of a word is dropped. -/

namespace Sys2Proof

/-! ## Coded fields -/

/-- The condition coded by bits [31:28]; 1111 is none (R104, R173). -/
def Cond.ofBits? (b : BitVec 4) : Option Cond :=
  match b.toNat with
  | 0 => some .eq
  | 1 => some .ne
  | 2 => some .cs
  | 3 => some .cc
  | 4 => some .mi
  | 5 => some .pl
  | 6 => some .vs
  | 7 => some .vc
  | 8 => some .hi
  | 9 => some .ls
  | 10 => some .ge
  | 11 => some .lt
  | 12 => some .gt
  | 13 => some .le
  | 14 => some .al
  | _ => none

/-- The code of a condition (R104). -/
def Cond.bits : Cond → BitVec 4
  | .eq => 0b0000
  | .ne => 0b0001
  | .cs => 0b0010
  | .cc => 0b0011
  | .mi => 0b0100
  | .pl => 0b0101
  | .vs => 0b0110
  | .vc => 0b0111
  | .hi => 0b1000
  | .ls => 0b1001
  | .ge => 0b1010
  | .lt => 0b1011
  | .gt => 0b1100
  | .le => 0b1101
  | .al => 0b1110

/-- The shift type coded by bits [6:5] (R151). -/
def Shift.ofBits (b : BitVec 2) : Shift :=
  match b.toNat with
  | 0 => .lsl
  | 1 => .lsr
  | 2 => .asr
  | _ => .ror

/-- The code of a shift type (R151). -/
def Shift.bits : Shift → BitVec 2
  | .lsl => 0b00
  | .lsr => 0b01
  | .asr => 0b10
  | .ror => 0b11

/-! ## ARM words -/

/-- Words with bits [31:28] = 1111 (R109, R173, R432). -/
def decodeUncond (w : Word) : Instr :=
  match (w.extractLsb' 25 3).toNat with
  | 0b100 => .undefBlockUncond (w.extractLsb' 0 25)
  | 0b101 => .blxImm (w.getLsbD 24) (w.extractLsb' 0 24)
  | 0b110 =>
    if w.getLsbD 24 || w.getLsbD 23 || w.getLsbD 21 then
      if w.getLsbD 20 then .ldc2 (w.getLsbD 24) (w.getLsbD 23) (w.getLsbD 22) (w.getLsbD 21) (w.extractLsb' 16 4)
          (w.extractLsb' 12 4) (w.extractLsb' 8 4) (w.extractLsb' 0 8)
      else .stc2 (w.getLsbD 24) (w.getLsbD 23) (w.getLsbD 22) (w.getLsbD 21) (w.extractLsb' 16 4) (w.extractLsb' 12 4)
          (w.extractLsb' 8 4) (w.extractLsb' 0 8)
    else .undefCoprocExtUncond (w.getLsbD 22) (w.extractLsb' 0 21)
  | 0b111 =>
    if w.getLsbD 24 then .undefSwiUncond (w.extractLsb' 0 24)
    else if w.getLsbD 4 then
      if w.getLsbD 20 then .mrc2 (w.extractLsb' 21 3) (w.extractLsb' 16 4) (w.extractLsb' 12 4) (w.extractLsb' 8 4)
          (w.extractLsb' 5 3) (w.extractLsb' 0 4)
      else .mcr2 (w.extractLsb' 21 3) (w.extractLsb' 16 4) (w.extractLsb' 12 4) (w.extractLsb' 8 4) (w.extractLsb' 5 3)
          (w.extractLsb' 0 4)
    else .cdp2 (w.extractLsb' 20 4) (w.extractLsb' 16 4) (w.extractLsb' 12 4) (w.extractLsb' 8 4) (w.extractLsb' 5 3)
        (w.extractLsb' 0 4)
  | _ =>
    if w.getLsbD 26 && w.getLsbD 24 && w.extractLsb' 20 3 == 0b101 && w.extractLsb' 12 4 == 0b1111 &&
        (!w.getLsbD 25 || !w.getLsbD 4) then
      if w.getLsbD 25 then .pldReg (w.getLsbD 23) (w.extractLsb' 16 4) (w.extractLsb' 7 5)
          (Shift.ofBits (w.extractLsb' 5 2)) (w.extractLsb' 0 4)
      else .pldImm (w.getLsbD 23) (w.extractLsb' 16 4) (w.extractLsb' 0 12)
    else .undefUncond (w.extractLsb' 0 28)

/-- Multiplies, swaps and the words of R103: bits [27:25] = 000, [7:4] = 1001 (rows 5, 7, 8). -/
def decodeMultiply (c : Cond) (w : Word) : Instr :=
  match (w.extractLsb' 21 4).toNat with
  | 0b0000 => .mul c (w.getLsbD 20) (w.extractLsb' 16 4) (w.extractLsb' 12 4) (w.extractLsb' 8 4) (w.extractLsb' 0 4)
  | 0b0001 => .mla c (w.getLsbD 20) (w.extractLsb' 16 4) (w.extractLsb' 12 4) (w.extractLsb' 8 4) (w.extractLsb' 0 4)
  | 0b0100 => .umull c (w.getLsbD 20) (w.extractLsb' 16 4) (w.extractLsb' 12 4) (w.extractLsb' 8 4) (w.extractLsb' 0 4)
  | 0b0101 => .umlal c (w.getLsbD 20) (w.extractLsb' 16 4) (w.extractLsb' 12 4) (w.extractLsb' 8 4) (w.extractLsb' 0 4)
  | 0b0110 => .smull c (w.getLsbD 20) (w.extractLsb' 16 4) (w.extractLsb' 12 4) (w.extractLsb' 8 4) (w.extractLsb' 0 4)
  | 0b0111 => .smlal c (w.getLsbD 20) (w.extractLsb' 16 4) (w.extractLsb' 12 4) (w.extractLsb' 8 4) (w.extractLsb' 0 4)
  | 0b1000 =>
    if w.getLsbD 20 then .undefArith c (w.extractLsb' 20 5) (w.extractLsb' 8 12) (w.extractLsb' 0 4)
    else .swp c (w.extractLsb' 16 4) (w.extractLsb' 12 4) (w.extractLsb' 8 4) (w.extractLsb' 0 4)
  | 0b1010 =>
    if w.getLsbD 20 then .undefArith c (w.extractLsb' 20 5) (w.extractLsb' 8 12) (w.extractLsb' 0 4)
    else .swpb c (w.extractLsb' 16 4) (w.extractLsb' 12 4) (w.extractLsb' 8 4) (w.extractLsb' 0 4)
  | _ => .undefArith c (w.extractLsb' 20 5) (w.extractLsb' 8 12) (w.extractLsb' 0 4)

/-- Halfword, signed and doubleword transfers: bits [27:25] = 000, bits 7 and 4 set, [6:5] not 00 (R298). -/
def decodeExtra (c : Cond) (w : Word) : Instr :=
  match w.getLsbD 20, (w.extractLsb' 5 2).toNat with
  | false, 0b01 =>
    if w.getLsbD 22 then .strhImm c (w.getLsbD 24) (w.getLsbD 23) (w.getLsbD 21) (w.extractLsb' 16 4)
        (w.extractLsb' 12 4) (w.extractLsb' 8 4) (w.extractLsb' 0 4)
    else .strhReg c (w.getLsbD 24) (w.getLsbD 23) (w.getLsbD 21) (w.extractLsb' 16 4) (w.extractLsb' 12 4)
        (w.extractLsb' 8 4) (w.extractLsb' 0 4)
  | true, 0b01 =>
    if w.getLsbD 22 then .ldrhImm c (w.getLsbD 24) (w.getLsbD 23) (w.getLsbD 21) (w.extractLsb' 16 4)
        (w.extractLsb' 12 4) (w.extractLsb' 8 4) (w.extractLsb' 0 4)
    else .ldrhReg c (w.getLsbD 24) (w.getLsbD 23) (w.getLsbD 21) (w.extractLsb' 16 4) (w.extractLsb' 12 4)
        (w.extractLsb' 8 4) (w.extractLsb' 0 4)
  | true, 0b10 =>
    if w.getLsbD 22 then .ldrsbImm c (w.getLsbD 24) (w.getLsbD 23) (w.getLsbD 21) (w.extractLsb' 16 4)
        (w.extractLsb' 12 4) (w.extractLsb' 8 4) (w.extractLsb' 0 4)
    else .ldrsbReg c (w.getLsbD 24) (w.getLsbD 23) (w.getLsbD 21) (w.extractLsb' 16 4) (w.extractLsb' 12 4)
        (w.extractLsb' 8 4) (w.extractLsb' 0 4)
  | true, _ =>
    if w.getLsbD 22 then .ldrshImm c (w.getLsbD 24) (w.getLsbD 23) (w.getLsbD 21) (w.extractLsb' 16 4)
        (w.extractLsb' 12 4) (w.extractLsb' 8 4) (w.extractLsb' 0 4)
    else .ldrshReg c (w.getLsbD 24) (w.getLsbD 23) (w.getLsbD 21) (w.extractLsb' 16 4) (w.extractLsb' 12 4)
        (w.extractLsb' 8 4) (w.extractLsb' 0 4)
  | false, 0b10 =>
    if w.getLsbD 22 then .ldrdImm c (w.getLsbD 24) (w.getLsbD 23) (w.getLsbD 21) (w.extractLsb' 16 4)
        (w.extractLsb' 12 4) (w.extractLsb' 8 4) (w.extractLsb' 0 4)
    else .ldrdReg c (w.getLsbD 24) (w.getLsbD 23) (w.getLsbD 21) (w.extractLsb' 16 4) (w.extractLsb' 12 4)
        (w.extractLsb' 8 4) (w.extractLsb' 0 4)
  | false, _ =>
    if w.getLsbD 22 then .strdImm c (w.getLsbD 24) (w.getLsbD 23) (w.getLsbD 21) (w.extractLsb' 16 4)
        (w.extractLsb' 12 4) (w.extractLsb' 8 4) (w.extractLsb' 0 4)
    else .strdReg c (w.getLsbD 24) (w.getLsbD 23) (w.getLsbD 21) (w.extractLsb' 16 4) (w.extractLsb' 12 4)
        (w.extractLsb' 8 4) (w.extractLsb' 0 4)

/-- Signed 16-bit multiplies: bits [27:23] = 00010, bit 20 clear, bit 7 set, bit 4 clear (row 12, before row 9: R102).
    -/
def decodeDspMultiply (c : Cond) (w : Word) : Instr :=
  match (w.extractLsb' 21 2).toNat with
  | 0b00 => .smlaxy c (w.extractLsb' 16 4) (w.extractLsb' 12 4) (w.extractLsb' 8 4) (w.getLsbD 6) (w.getLsbD 5)
      (w.extractLsb' 0 4)
  | 0b01 =>
    if w.getLsbD 5 then .smulwy c (w.extractLsb' 16 4) (w.extractLsb' 12 4) (w.extractLsb' 8 4) (w.getLsbD 6)
        (w.extractLsb' 0 4)
    else .smlawy c (w.extractLsb' 16 4) (w.extractLsb' 12 4) (w.extractLsb' 8 4) (w.getLsbD 6) (w.extractLsb' 0 4)
  | 0b10 => .smlalxy c (w.extractLsb' 16 4) (w.extractLsb' 12 4) (w.extractLsb' 8 4) (w.getLsbD 6) (w.getLsbD 5)
      (w.extractLsb' 0 4)
  | _ => .smulxy c (w.extractLsb' 16 4) (w.extractLsb' 12 4) (w.extractLsb' 8 4) (w.getLsbD 6) (w.getLsbD 5)
      (w.extractLsb' 0 4)

/-- The rest of the compare code points with S = 0 and bit 25 clear: bits [27:23] = 00010, bits 20 and 7 clear (rows 2,
3, 4, 6, 9, 18; R346). -/
def decodeMisc (c : Cond) (w : Word) : Instr :=
  match (w.extractLsb' 21 2).toNat, (w.extractLsb' 4 3).toNat with
  | 0b00, 0b101 => .qadd c (w.extractLsb' 16 4) (w.extractLsb' 12 4) (w.extractLsb' 8 4) (w.extractLsb' 0 4)
  | 0b01, 0b101 => .qsub c (w.extractLsb' 16 4) (w.extractLsb' 12 4) (w.extractLsb' 8 4) (w.extractLsb' 0 4)
  | 0b10, 0b101 => .qdadd c (w.extractLsb' 16 4) (w.extractLsb' 12 4) (w.extractLsb' 8 4) (w.extractLsb' 0 4)
  | 0b11, 0b101 => .qdsub c (w.extractLsb' 16 4) (w.extractLsb' 12 4) (w.extractLsb' 8 4) (w.extractLsb' 0 4)
  | 0b01, 0b001 => .bx c (w.extractLsb' 8 12) (w.extractLsb' 0 4)
  | 0b01, 0b011 => .blxReg c (w.extractLsb' 8 12) (w.extractLsb' 0 4)
  | 0b01, 0b111 => .bkpt c (w.extractLsb' 8 12) (w.extractLsb' 0 4)
  | 0b11, 0b001 => .clz c (w.extractLsb' 16 4) (w.extractLsb' 12 4) (w.extractLsb' 8 4) (w.extractLsb' 0 4)
  | 0b11, 0b011 => .undefCompare c (w.extractLsb' 21 2) (w.extractLsb' 0 20)
  | 0b11, 0b111 => .undefCompare c (w.extractLsb' 21 2) (w.extractLsb' 0 20)
  | 0b00, _ => .mrs c (w.getLsbD 22) (w.extractLsb' 16 4) (w.extractLsb' 12 4) (w.extractLsb' 0 12)
  | 0b10, _ => .mrs c (w.getLsbD 22) (w.extractLsb' 16 4) (w.extractLsb' 12 4) (w.extractLsb' 0 12)
  | _, _ => .msrReg c (w.getLsbD 22) (w.extractLsb' 16 4) (w.extractLsb' 12 4) (w.extractLsb' 8 4) (w.extractLsb' 5 2)
      (w.extractLsb' 0 4)

/-- Data processing, register shift (row 25, R134, R162). -/
def decodeRegShift (c : Cond) (w : Word) : Instr :=
  match (w.extractLsb' 21 4).toNat with
  | 0 => .andRegShift c (w.getLsbD 20) (w.extractLsb' 16 4) (w.extractLsb' 12 4) (w.extractLsb' 8 4)
      (Shift.ofBits (w.extractLsb' 5 2)) (w.extractLsb' 0 4)
  | 1 => .eorRegShift c (w.getLsbD 20) (w.extractLsb' 16 4) (w.extractLsb' 12 4) (w.extractLsb' 8 4)
      (Shift.ofBits (w.extractLsb' 5 2)) (w.extractLsb' 0 4)
  | 2 => .subRegShift c (w.getLsbD 20) (w.extractLsb' 16 4) (w.extractLsb' 12 4) (w.extractLsb' 8 4)
      (Shift.ofBits (w.extractLsb' 5 2)) (w.extractLsb' 0 4)
  | 3 => .rsbRegShift c (w.getLsbD 20) (w.extractLsb' 16 4) (w.extractLsb' 12 4) (w.extractLsb' 8 4)
      (Shift.ofBits (w.extractLsb' 5 2)) (w.extractLsb' 0 4)
  | 4 => .addRegShift c (w.getLsbD 20) (w.extractLsb' 16 4) (w.extractLsb' 12 4) (w.extractLsb' 8 4)
      (Shift.ofBits (w.extractLsb' 5 2)) (w.extractLsb' 0 4)
  | 5 => .adcRegShift c (w.getLsbD 20) (w.extractLsb' 16 4) (w.extractLsb' 12 4) (w.extractLsb' 8 4)
      (Shift.ofBits (w.extractLsb' 5 2)) (w.extractLsb' 0 4)
  | 6 => .sbcRegShift c (w.getLsbD 20) (w.extractLsb' 16 4) (w.extractLsb' 12 4) (w.extractLsb' 8 4)
      (Shift.ofBits (w.extractLsb' 5 2)) (w.extractLsb' 0 4)
  | 7 => .rscRegShift c (w.getLsbD 20) (w.extractLsb' 16 4) (w.extractLsb' 12 4) (w.extractLsb' 8 4)
      (Shift.ofBits (w.extractLsb' 5 2)) (w.extractLsb' 0 4)
  | 8 => .tstRegShift c (w.extractLsb' 16 4) (w.extractLsb' 12 4) (w.extractLsb' 8 4)
      (Shift.ofBits (w.extractLsb' 5 2)) (w.extractLsb' 0 4)
  | 9 => .teqRegShift c (w.extractLsb' 16 4) (w.extractLsb' 12 4) (w.extractLsb' 8 4)
      (Shift.ofBits (w.extractLsb' 5 2)) (w.extractLsb' 0 4)
  | 10 => .cmpRegShift c (w.extractLsb' 16 4) (w.extractLsb' 12 4) (w.extractLsb' 8 4)
      (Shift.ofBits (w.extractLsb' 5 2)) (w.extractLsb' 0 4)
  | 11 => .cmnRegShift c (w.extractLsb' 16 4) (w.extractLsb' 12 4) (w.extractLsb' 8 4)
      (Shift.ofBits (w.extractLsb' 5 2)) (w.extractLsb' 0 4)
  | 12 => .orrRegShift c (w.getLsbD 20) (w.extractLsb' 16 4) (w.extractLsb' 12 4) (w.extractLsb' 8 4)
      (Shift.ofBits (w.extractLsb' 5 2)) (w.extractLsb' 0 4)
  | 13 => .movRegShift c (w.getLsbD 20) (w.extractLsb' 16 4) (w.extractLsb' 12 4) (w.extractLsb' 8 4)
      (Shift.ofBits (w.extractLsb' 5 2)) (w.extractLsb' 0 4)
  | 14 => .bicRegShift c (w.getLsbD 20) (w.extractLsb' 16 4) (w.extractLsb' 12 4) (w.extractLsb' 8 4)
      (Shift.ofBits (w.extractLsb' 5 2)) (w.extractLsb' 0 4)
  | _ => .mvnRegShift c (w.getLsbD 20) (w.extractLsb' 16 4) (w.extractLsb' 12 4) (w.extractLsb' 8 4)
      (Shift.ofBits (w.extractLsb' 5 2)) (w.extractLsb' 0 4)

/-- Data processing, immediate shift (row 26, R135, R162). -/
def decodeImmShift (c : Cond) (w : Word) : Instr :=
  match (w.extractLsb' 21 4).toNat with
  | 0 => .andImmShift c (w.getLsbD 20) (w.extractLsb' 16 4) (w.extractLsb' 12 4) (w.extractLsb' 7 5)
      (Shift.ofBits (w.extractLsb' 5 2)) (w.extractLsb' 0 4)
  | 1 => .eorImmShift c (w.getLsbD 20) (w.extractLsb' 16 4) (w.extractLsb' 12 4) (w.extractLsb' 7 5)
      (Shift.ofBits (w.extractLsb' 5 2)) (w.extractLsb' 0 4)
  | 2 => .subImmShift c (w.getLsbD 20) (w.extractLsb' 16 4) (w.extractLsb' 12 4) (w.extractLsb' 7 5)
      (Shift.ofBits (w.extractLsb' 5 2)) (w.extractLsb' 0 4)
  | 3 => .rsbImmShift c (w.getLsbD 20) (w.extractLsb' 16 4) (w.extractLsb' 12 4) (w.extractLsb' 7 5)
      (Shift.ofBits (w.extractLsb' 5 2)) (w.extractLsb' 0 4)
  | 4 => .addImmShift c (w.getLsbD 20) (w.extractLsb' 16 4) (w.extractLsb' 12 4) (w.extractLsb' 7 5)
      (Shift.ofBits (w.extractLsb' 5 2)) (w.extractLsb' 0 4)
  | 5 => .adcImmShift c (w.getLsbD 20) (w.extractLsb' 16 4) (w.extractLsb' 12 4) (w.extractLsb' 7 5)
      (Shift.ofBits (w.extractLsb' 5 2)) (w.extractLsb' 0 4)
  | 6 => .sbcImmShift c (w.getLsbD 20) (w.extractLsb' 16 4) (w.extractLsb' 12 4) (w.extractLsb' 7 5)
      (Shift.ofBits (w.extractLsb' 5 2)) (w.extractLsb' 0 4)
  | 7 => .rscImmShift c (w.getLsbD 20) (w.extractLsb' 16 4) (w.extractLsb' 12 4) (w.extractLsb' 7 5)
      (Shift.ofBits (w.extractLsb' 5 2)) (w.extractLsb' 0 4)
  | 8 => .tstImmShift c (w.extractLsb' 16 4) (w.extractLsb' 12 4) (w.extractLsb' 7 5)
      (Shift.ofBits (w.extractLsb' 5 2)) (w.extractLsb' 0 4)
  | 9 => .teqImmShift c (w.extractLsb' 16 4) (w.extractLsb' 12 4) (w.extractLsb' 7 5)
      (Shift.ofBits (w.extractLsb' 5 2)) (w.extractLsb' 0 4)
  | 10 => .cmpImmShift c (w.extractLsb' 16 4) (w.extractLsb' 12 4) (w.extractLsb' 7 5)
      (Shift.ofBits (w.extractLsb' 5 2)) (w.extractLsb' 0 4)
  | 11 => .cmnImmShift c (w.extractLsb' 16 4) (w.extractLsb' 12 4) (w.extractLsb' 7 5)
      (Shift.ofBits (w.extractLsb' 5 2)) (w.extractLsb' 0 4)
  | 12 => .orrImmShift c (w.getLsbD 20) (w.extractLsb' 16 4) (w.extractLsb' 12 4) (w.extractLsb' 7 5)
      (Shift.ofBits (w.extractLsb' 5 2)) (w.extractLsb' 0 4)
  | 13 => .movImmShift c (w.getLsbD 20) (w.extractLsb' 16 4) (w.extractLsb' 12 4) (w.extractLsb' 7 5)
      (Shift.ofBits (w.extractLsb' 5 2)) (w.extractLsb' 0 4)
  | 14 => .bicImmShift c (w.getLsbD 20) (w.extractLsb' 16 4) (w.extractLsb' 12 4) (w.extractLsb' 7 5)
      (Shift.ofBits (w.extractLsb' 5 2)) (w.extractLsb' 0 4)
  | _ => .mvnImmShift c (w.getLsbD 20) (w.extractLsb' 16 4) (w.extractLsb' 12 4) (w.extractLsb' 7 5)
      (Shift.ofBits (w.extractLsb' 5 2)) (w.extractLsb' 0 4)

/-- Data processing, immediate (row 30, R139, R162). -/
def decodeDpImm (c : Cond) (w : Word) : Instr :=
  match (w.extractLsb' 21 4).toNat with
  | 0 => .andImm c (w.getLsbD 20) (w.extractLsb' 16 4) (w.extractLsb' 12 4) (w.extractLsb' 8 4) (w.extractLsb' 0 8)
  | 1 => .eorImm c (w.getLsbD 20) (w.extractLsb' 16 4) (w.extractLsb' 12 4) (w.extractLsb' 8 4) (w.extractLsb' 0 8)
  | 2 => .subImm c (w.getLsbD 20) (w.extractLsb' 16 4) (w.extractLsb' 12 4) (w.extractLsb' 8 4) (w.extractLsb' 0 8)
  | 3 => .rsbImm c (w.getLsbD 20) (w.extractLsb' 16 4) (w.extractLsb' 12 4) (w.extractLsb' 8 4) (w.extractLsb' 0 8)
  | 4 => .addImm c (w.getLsbD 20) (w.extractLsb' 16 4) (w.extractLsb' 12 4) (w.extractLsb' 8 4) (w.extractLsb' 0 8)
  | 5 => .adcImm c (w.getLsbD 20) (w.extractLsb' 16 4) (w.extractLsb' 12 4) (w.extractLsb' 8 4) (w.extractLsb' 0 8)
  | 6 => .sbcImm c (w.getLsbD 20) (w.extractLsb' 16 4) (w.extractLsb' 12 4) (w.extractLsb' 8 4) (w.extractLsb' 0 8)
  | 7 => .rscImm c (w.getLsbD 20) (w.extractLsb' 16 4) (w.extractLsb' 12 4) (w.extractLsb' 8 4) (w.extractLsb' 0 8)
  | 8 => .tstImm c (w.extractLsb' 16 4) (w.extractLsb' 12 4) (w.extractLsb' 8 4) (w.extractLsb' 0 8)
  | 9 => .teqImm c (w.extractLsb' 16 4) (w.extractLsb' 12 4) (w.extractLsb' 8 4) (w.extractLsb' 0 8)
  | 10 => .cmpImm c (w.extractLsb' 16 4) (w.extractLsb' 12 4) (w.extractLsb' 8 4) (w.extractLsb' 0 8)
  | 11 => .cmnImm c (w.extractLsb' 16 4) (w.extractLsb' 12 4) (w.extractLsb' 8 4) (w.extractLsb' 0 8)
  | 12 => .orrImm c (w.getLsbD 20) (w.extractLsb' 16 4) (w.extractLsb' 12 4) (w.extractLsb' 8 4) (w.extractLsb' 0 8)
  | 13 => .movImm c (w.getLsbD 20) (w.extractLsb' 16 4) (w.extractLsb' 12 4) (w.extractLsb' 8 4) (w.extractLsb' 0 8)
  | 14 => .bicImm c (w.getLsbD 20) (w.extractLsb' 16 4) (w.extractLsb' 12 4) (w.extractLsb' 8 4) (w.extractLsb' 0 8)
  | _ => .mvnImm c (w.getLsbD 20) (w.extractLsb' 16 4) (w.extractLsb' 12 4) (w.extractLsb' 8 4) (w.extractLsb' 0 8)

/-- Bits [27:25] = 000. -/
def decodeGroup0 (c : Cond) (w : Word) : Instr :=
  if w.getLsbD 7 && w.getLsbD 4 then
    if w.extractLsb' 5 2 == 0b00 then decodeMultiply c w else decodeExtra c w
  else if w.extractLsb' 23 2 == 0b10 && !w.getLsbD 20 then
    if w.getLsbD 7 then decodeDspMultiply c w else decodeMisc c w
  else if w.getLsbD 4 then decodeRegShift c w
  else decodeImmShift c w

/-- Bits [27:25] = 001 (rows 19, 20, 30). -/
def decodeGroup1 (c : Cond) (w : Word) : Instr :=
  if w.extractLsb' 23 2 == 0b10 && !w.getLsbD 20 then
    if w.getLsbD 21 then .msrImm c (w.getLsbD 22) (w.extractLsb' 16 4) (w.extractLsb' 12 4) (w.extractLsb' 8 4)
        (w.extractLsb' 0 8)
    else .undefImmCompare c (w.getLsbD 22) (w.extractLsb' 0 20)
  else decodeDpImm c w

/-- Word and byte transfers with an immediate offset, bits [27:25] = 010 (row 31, R140, R370). -/
def decodeGroup2 (c : Cond) (w : Word) : Instr :=
  match w.getLsbD 22, w.getLsbD 20, !w.getLsbD 24 && w.getLsbD 21 with
  | false, false, true => .strtImm c (w.getLsbD 23) (w.extractLsb' 16 4) (w.extractLsb' 12 4) (w.extractLsb' 0 12)
  | false, true, true => .ldrtImm c (w.getLsbD 23) (w.extractLsb' 16 4) (w.extractLsb' 12 4) (w.extractLsb' 0 12)
  | true, false, true => .strbtImm c (w.getLsbD 23) (w.extractLsb' 16 4) (w.extractLsb' 12 4) (w.extractLsb' 0 12)
  | true, true, true => .ldrbtImm c (w.getLsbD 23) (w.extractLsb' 16 4) (w.extractLsb' 12 4) (w.extractLsb' 0 12)
  | false, false, false => .strImm c (w.getLsbD 24) (w.getLsbD 23) (w.getLsbD 21) (w.extractLsb' 16 4)
      (w.extractLsb' 12 4) (w.extractLsb' 0 12)
  | false, true, false => .ldrImm c (w.getLsbD 24) (w.getLsbD 23) (w.getLsbD 21) (w.extractLsb' 16 4)
      (w.extractLsb' 12 4) (w.extractLsb' 0 12)
  | true, false, false => .strbImm c (w.getLsbD 24) (w.getLsbD 23) (w.getLsbD 21) (w.extractLsb' 16 4)
      (w.extractLsb' 12 4) (w.extractLsb' 0 12)
  | true, true, false => .ldrbImm c (w.getLsbD 24) (w.getLsbD 23) (w.getLsbD 21) (w.extractLsb' 16 4)
      (w.extractLsb' 12 4) (w.extractLsb' 0 12)

/-- Word and byte transfers with a register offset, bits [27:25] = 011 (rows 27 and 28, R136, R137, R370). -/
def decodeGroup3 (c : Cond) (w : Word) : Instr :=
  if w.getLsbD 4 then .undefMedia c (w.extractLsb' 5 20) (w.extractLsb' 0 4)
  else
    match w.getLsbD 22, w.getLsbD 20, !w.getLsbD 24 && w.getLsbD 21 with
    | false, false, true => .strtReg c (w.getLsbD 23) (w.extractLsb' 16 4) (w.extractLsb' 12 4) (w.extractLsb' 7 5)
        (Shift.ofBits (w.extractLsb' 5 2)) (w.extractLsb' 0 4)
    | false, true, true => .ldrtReg c (w.getLsbD 23) (w.extractLsb' 16 4) (w.extractLsb' 12 4) (w.extractLsb' 7 5)
        (Shift.ofBits (w.extractLsb' 5 2)) (w.extractLsb' 0 4)
    | true, false, true => .strbtReg c (w.getLsbD 23) (w.extractLsb' 16 4) (w.extractLsb' 12 4) (w.extractLsb' 7 5)
        (Shift.ofBits (w.extractLsb' 5 2)) (w.extractLsb' 0 4)
    | true, true, true => .ldrbtReg c (w.getLsbD 23) (w.extractLsb' 16 4) (w.extractLsb' 12 4) (w.extractLsb' 7 5)
        (Shift.ofBits (w.extractLsb' 5 2)) (w.extractLsb' 0 4)
    | false, false, false => .strReg c (w.getLsbD 24) (w.getLsbD 23) (w.getLsbD 21) (w.extractLsb' 16 4)
        (w.extractLsb' 12 4) (w.extractLsb' 7 5) (Shift.ofBits (w.extractLsb' 5 2)) (w.extractLsb' 0 4)
    | false, true, false => .ldrReg c (w.getLsbD 24) (w.getLsbD 23) (w.getLsbD 21) (w.extractLsb' 16 4)
        (w.extractLsb' 12 4) (w.extractLsb' 7 5) (Shift.ofBits (w.extractLsb' 5 2)) (w.extractLsb' 0 4)
    | true, false, false => .strbReg c (w.getLsbD 24) (w.getLsbD 23) (w.getLsbD 21) (w.extractLsb' 16 4)
        (w.extractLsb' 12 4) (w.extractLsb' 7 5) (Shift.ofBits (w.extractLsb' 5 2)) (w.extractLsb' 0 4)
    | true, true, false => .ldrbReg c (w.getLsbD 24) (w.getLsbD 23) (w.getLsbD 21) (w.extractLsb' 16 4)
        (w.extractLsb' 12 4) (w.extractLsb' 7 5) (Shift.ofBits (w.extractLsb' 5 2)) (w.extractLsb' 0 4)

/-- Load and store multiple, bits [27:25] = 100 (row 32, R141, R394 to R398). -/
def decodeGroup4 (c : Cond) (w : Word) : Instr :=
  match w.getLsbD 20, w.getLsbD 22, w.getLsbD 15 with
  | true, false, _ => .ldm1 c (w.getLsbD 24) (w.getLsbD 23) (w.getLsbD 21) (w.extractLsb' 16 4) (w.extractLsb' 0 16)
  | true, true, false => .ldm2 c (w.getLsbD 24) (w.getLsbD 23) (w.getLsbD 21) (w.extractLsb' 16 4) (w.extractLsb' 0 15)
  | true, true, true => .ldm3 c (w.getLsbD 24) (w.getLsbD 23) (w.getLsbD 21) (w.extractLsb' 16 4) (w.extractLsb' 0 15)
  | false, false, _ => .stm1 c (w.getLsbD 24) (w.getLsbD 23) (w.getLsbD 21) (w.extractLsb' 16 4) (w.extractLsb' 0 16)
  | false, true, _ => .stm2 c (w.getLsbD 24) (w.getLsbD 23) (w.getLsbD 21) (w.extractLsb' 16 4) (w.extractLsb' 0 16)

/-- Branches, bits [27:25] = 101 (row 33, R142). -/
def decodeGroup5 (c : Cond) (w : Word) : Instr :=
  if w.getLsbD 24 then .bl c (w.extractLsb' 0 24)
  else .b c (w.extractLsb' 0 24)

/-- Coprocessor load and store and the two-register transfers, bits [27:25] = 110 (row 34, R143, R449). -/
def decodeGroup6 (c : Cond) (w : Word) : Instr :=
  if w.getLsbD 24 || w.getLsbD 23 || w.getLsbD 21 then
    if w.getLsbD 20 then .ldc c (w.getLsbD 24) (w.getLsbD 23) (w.getLsbD 22) (w.getLsbD 21) (w.extractLsb' 16 4)
        (w.extractLsb' 12 4) (w.extractLsb' 8 4) (w.extractLsb' 0 8)
    else .stc c (w.getLsbD 24) (w.getLsbD 23) (w.getLsbD 22) (w.getLsbD 21) (w.extractLsb' 16 4) (w.extractLsb' 12 4)
        (w.extractLsb' 8 4) (w.extractLsb' 0 8)
  else if w.getLsbD 22 then
    if w.getLsbD 20 then .mrrc c (w.extractLsb' 16 4) (w.extractLsb' 12 4) (w.extractLsb' 8 4) (w.extractLsb' 4 4)
        (w.extractLsb' 0 4)
    else .mcrr c (w.extractLsb' 16 4) (w.extractLsb' 12 4) (w.extractLsb' 8 4) (w.extractLsb' 4 4) (w.extractLsb' 0 4)
  else .undefCoprocExt c (w.extractLsb' 0 21)

/-- Software interrupt, coprocessor operations and register transfers, bits [27:25] = 111 (rows 23, 24, 29). -/
def decodeGroup7 (c : Cond) (w : Word) : Instr :=
  if w.getLsbD 24 then .swi c (w.extractLsb' 0 24)
  else if w.getLsbD 4 then
    if w.getLsbD 20 then .mrc c (w.extractLsb' 21 3) (w.extractLsb' 16 4) (w.extractLsb' 12 4) (w.extractLsb' 8 4)
        (w.extractLsb' 5 3) (w.extractLsb' 0 4)
    else .mcr c (w.extractLsb' 21 3) (w.extractLsb' 16 4) (w.extractLsb' 12 4) (w.extractLsb' 8 4) (w.extractLsb' 5 3)
        (w.extractLsb' 0 4)
  else .cdp c (w.extractLsb' 20 4) (w.extractLsb' 16 4) (w.extractLsb' 12 4) (w.extractLsb' 8 4) (w.extractLsb' 5 3)
      (w.extractLsb' 0 4)

/-- Words whose bits [31:28] are a condition (R101, R102). -/
def decodeCond (c : Cond) (w : Word) : Instr :=
  match (w.extractLsb' 25 3).toNat with
  | 0 => decodeGroup0 c w
  | 1 => decodeGroup1 c w
  | 2 => decodeGroup2 c w
  | 3 => decodeGroup3 c w
  | 4 => decodeGroup4 c w
  | 5 => decodeGroup5 c w
  | 6 => decodeGroup6 c w
  | _ => decodeGroup7 c w

/-- The instruction of a 32-bit word (R101 to R103, R109). -/
def decodeArm (w : Word) : Instr :=
  match Cond.ofBits? (w.extractLsb' 28 4) with
  | some c => decodeCond c w
  | none => decodeUncond w

/-! ## Thumb halfwords -/

/-- Thumb shifts, adds and subtracts, h[15:13] = 000 (R463 to R469). -/
def decodeThumbShift (h : Half) : Instr :=
  match (h.extractLsb' 11 2).toNat with
  | 0b00 => .tLsl1 (h.extractLsb' 6 5) (h.extractLsb' 3 3) (h.extractLsb' 0 3)
  | 0b01 => .tLsr1 (h.extractLsb' 6 5) (h.extractLsb' 3 3) (h.extractLsb' 0 3)
  | 0b10 => .tAsr1 (h.extractLsb' 6 5) (h.extractLsb' 3 3) (h.extractLsb' 0 3)
  | _ =>
    match (h.extractLsb' 9 2).toNat with
    | 0b00 => .tAdd3 (h.extractLsb' 6 3) (h.extractLsb' 3 3) (h.extractLsb' 0 3)
    | 0b01 => .tSub3 (h.extractLsb' 6 3) (h.extractLsb' 3 3) (h.extractLsb' 0 3)
    | 0b10 => .tAdd1 (h.extractLsb' 6 3) (h.extractLsb' 3 3) (h.extractLsb' 0 3)
    | _ => .tSub1 (h.extractLsb' 6 3) (h.extractLsb' 3 3) (h.extractLsb' 0 3)

/-- Thumb move, compare, add, subtract of an 8-bit immediate, h[15:13] = 001 (R470 to R473). -/
def decodeThumbImm8 (h : Half) : Instr :=
  match (h.extractLsb' 11 2).toNat with
  | 0b00 => .tMov1 (h.extractLsb' 8 3) (h.extractLsb' 0 8)
  | 0b01 => .tCmp1 (h.extractLsb' 8 3) (h.extractLsb' 0 8)
  | 0b10 => .tAdd2 (h.extractLsb' 8 3) (h.extractLsb' 0 8)
  | _ => .tSub2 (h.extractLsb' 8 3) (h.extractLsb' 0 8)

/-- Thumb ALU operations, h[15:10] = 010000 (R531). -/
def decodeThumbAlu (h : Half) : Instr :=
  match (h.extractLsb' 6 4).toNat with
  | 0 => .tAnd (h.extractLsb' 3 3) (h.extractLsb' 0 3)
  | 1 => .tEor (h.extractLsb' 3 3) (h.extractLsb' 0 3)
  | 2 => .tLsl2 (h.extractLsb' 3 3) (h.extractLsb' 0 3)
  | 3 => .tLsr2 (h.extractLsb' 3 3) (h.extractLsb' 0 3)
  | 4 => .tAsr2 (h.extractLsb' 3 3) (h.extractLsb' 0 3)
  | 5 => .tAdc (h.extractLsb' 3 3) (h.extractLsb' 0 3)
  | 6 => .tSbc (h.extractLsb' 3 3) (h.extractLsb' 0 3)
  | 7 => .tRor (h.extractLsb' 3 3) (h.extractLsb' 0 3)
  | 8 => .tTst (h.extractLsb' 3 3) (h.extractLsb' 0 3)
  | 9 => .tNeg (h.extractLsb' 3 3) (h.extractLsb' 0 3)
  | 10 => .tCmp2 (h.extractLsb' 3 3) (h.extractLsb' 0 3)
  | 11 => .tCmn (h.extractLsb' 3 3) (h.extractLsb' 0 3)
  | 12 => .tOrr (h.extractLsb' 3 3) (h.extractLsb' 0 3)
  | 13 => .tMul (h.extractLsb' 3 3) (h.extractLsb' 0 3)
  | 14 => .tBic (h.extractLsb' 3 3) (h.extractLsb' 0 3)
  | _ => .tMvn (h.extractLsb' 3 3) (h.extractLsb' 0 3)

/-- Thumb high-register operations and branch and exchange, h[15:10] = 010001 (R474, R475, R477 to R479). -/
def decodeThumbHigh (h : Half) : Instr :=
  match (h.extractLsb' 8 2).toNat with
  | 0b00 => .tAdd4 (h.getLsbD 7) (h.getLsbD 6) (h.extractLsb' 3 3) (h.extractLsb' 0 3)
  | 0b01 => .tCmp3 (h.getLsbD 7) (h.getLsbD 6) (h.extractLsb' 3 3) (h.extractLsb' 0 3)
  | 0b10 => .tMov3 (h.getLsbD 7) (h.getLsbD 6) (h.extractLsb' 3 3) (h.extractLsb' 0 3)
  | _ =>
    if h.getLsbD 7 then .tBlx2 (h.getLsbD 6) (h.extractLsb' 3 3) (h.extractLsb' 0 3)
    else .tBx (h.getLsbD 6) (h.extractLsb' 3 3) (h.extractLsb' 0 3)

/-- Thumb transfers with a register offset, h[15:12] = 0101 (R532). -/
def decodeThumbRegOffset (h : Half) : Instr :=
  match (h.extractLsb' 9 3).toNat with
  | 0 => .tStr2 (h.extractLsb' 6 3) (h.extractLsb' 3 3) (h.extractLsb' 0 3)
  | 1 => .tStrh2 (h.extractLsb' 6 3) (h.extractLsb' 3 3) (h.extractLsb' 0 3)
  | 2 => .tStrb2 (h.extractLsb' 6 3) (h.extractLsb' 3 3) (h.extractLsb' 0 3)
  | 3 => .tLdrsb (h.extractLsb' 6 3) (h.extractLsb' 3 3) (h.extractLsb' 0 3)
  | 4 => .tLdr2 (h.extractLsb' 6 3) (h.extractLsb' 3 3) (h.extractLsb' 0 3)
  | 5 => .tLdrh2 (h.extractLsb' 6 3) (h.extractLsb' 3 3) (h.extractLsb' 0 3)
  | 6 => .tLdrb2 (h.extractLsb' 6 3) (h.extractLsb' 3 3) (h.extractLsb' 0 3)
  | _ => .tLdrsh (h.extractLsb' 6 3) (h.extractLsb' 3 3) (h.extractLsb' 0 3)

/-- Thumb miscellaneous, h[15:12] = 1011 (R514 to R518, R528). -/
def decodeThumbMisc (h : Half) : Instr :=
  match (h.extractLsb' 8 4).toNat with
  | 0b0000 =>
    if h.getLsbD 7 then .tSub4 (h.extractLsb' 0 7)
    else .tAdd7 (h.extractLsb' 0 7)
  | 0b0100 => .tPush (h.getLsbD 8) (h.extractLsb' 0 8)
  | 0b0101 => .tPush (h.getLsbD 8) (h.extractLsb' 0 8)
  | 0b1100 => .tPop (h.getLsbD 8) (h.extractLsb' 0 8)
  | 0b1101 => .tPop (h.getLsbD 8) (h.extractLsb' 0 8)
  | 0b1110 => .tBkpt (h.extractLsb' 0 8)
  | _ => .tUndefMisc (h.extractLsb' 8 4) (h.extractLsb' 0 8)

/-- Thumb conditional branch, SWI and the Undefined condition, h[15:12] = 1101 (R521 to R523). -/
def decodeThumbBranch (h : Half) : Instr :=
  match Cond.ofBits? (h.extractLsb' 8 4) with
  | none => .tSwi (h.extractLsb' 0 8)
  | some .al => .tUndefCond (h.extractLsb' 0 8)
  | some c => .tB1 c (h.extractLsb' 0 8)

/-- The instruction of a 16-bit halfword, by its top bits (R461). -/
def decodeThumb (h : Half) : Instr :=
  match (h.extractLsb' 12 4).toNat with
  | 0b0000 => decodeThumbShift h
  | 0b0001 => decodeThumbShift h
  | 0b0010 => decodeThumbImm8 h
  | 0b0011 => decodeThumbImm8 h
  | 0b0100 =>
    if h.getLsbD 11 then .tLdr3 (h.extractLsb' 8 3) (h.extractLsb' 0 8)
    else if h.getLsbD 10 then decodeThumbHigh h
    else decodeThumbAlu h
  | 0b0101 => decodeThumbRegOffset h
  | 0b0110 =>
    if h.getLsbD 11 then .tLdr1 (h.extractLsb' 6 5) (h.extractLsb' 3 3) (h.extractLsb' 0 3)
    else .tStr1 (h.extractLsb' 6 5) (h.extractLsb' 3 3) (h.extractLsb' 0 3)
  | 0b0111 =>
    if h.getLsbD 11 then .tLdrb1 (h.extractLsb' 6 5) (h.extractLsb' 3 3) (h.extractLsb' 0 3)
    else .tStrb1 (h.extractLsb' 6 5) (h.extractLsb' 3 3) (h.extractLsb' 0 3)
  | 0b1000 =>
    if h.getLsbD 11 then .tLdrh1 (h.extractLsb' 6 5) (h.extractLsb' 3 3) (h.extractLsb' 0 3)
    else .tStrh1 (h.extractLsb' 6 5) (h.extractLsb' 3 3) (h.extractLsb' 0 3)
  | 0b1001 =>
    if h.getLsbD 11 then .tLdr4 (h.extractLsb' 8 3) (h.extractLsb' 0 8)
    else .tStr3 (h.extractLsb' 8 3) (h.extractLsb' 0 8)
  | 0b1010 =>
    if h.getLsbD 11 then .tAdd6 (h.extractLsb' 8 3) (h.extractLsb' 0 8)
    else .tAdd5 (h.extractLsb' 8 3) (h.extractLsb' 0 8)
  | 0b1011 => decodeThumbMisc h
  | 0b1100 =>
    if h.getLsbD 11 then .tLdmia (h.extractLsb' 8 3) (h.extractLsb' 0 8)
    else .tStmia (h.extractLsb' 8 3) (h.extractLsb' 0 8)
  | 0b1101 => decodeThumbBranch h
  | 0b1110 =>
    if h.getLsbD 11 then
      if h.getLsbD 0 then .tUndefBlx (h.extractLsb' 1 10)
      else .tBlx1Suffix (h.extractLsb' 1 10)
    else .tB2 (h.extractLsb' 0 11)
  | _ =>
    if h.getLsbD 11 then .tBlSuffix (h.extractLsb' 0 11)
    else .tBlPrefix (h.extractLsb' 0 11)

/-! ## Bytes -/

/-- An encoded instruction: a word in ARM state, a halfword in Thumb state (R100, R161). -/
inductive Encoding where
  | arm (w : Word)
  | thumb (h : Half)
deriving DecidableEq, Repr

/-- The instruction of an encoded instruction. -/
def decode : Encoding → Instr
  | .arm w => decodeArm w
  | .thumb h => decodeThumb h

/-- Why bytes are no instruction: fewer than an instruction's four (ARM) or two (Thumb). -/
inductive DecodeError where
  | truncated
deriving DecidableEq, Repr

/-- A halfword from its two bytes in address order (R63, R64). -/
def joinHalf (bigend : Bool) (b0 b1 : Byte) : Half := if bigend then b0 ++ b1 else b1 ++ b0

/-- A word from its four bytes in address order (R63, R64). -/
def joinWord (bigend : Bool) (b0 b1 b2 b3 : Byte) : Word :=
  if bigend then b0 ++ b1 ++ b2 ++ b3 else b3 ++ b2 ++ b1 ++ b0

/-- The bytes of a halfword in address order (R63, R64). -/
def splitHalf (bigend : Bool) (v : Half) : List Byte :=
  if bigend then [v.extractLsb' 8 8, v.extractLsb' 0 8] else [v.extractLsb' 0 8, v.extractLsb' 8 8]

/-- The bytes of a word in address order (R63, R64). -/
def splitWord (bigend : Bool) (v : Word) : List Byte :=
  if bigend then [v.extractLsb' 24 8, v.extractLsb' 16 8, v.extractLsb' 8 8, v.extractLsb' 0 8]
  else [v.extractLsb' 0 8, v.extractLsb' 8 8, v.extractLsb' 16 8, v.extractLsb' 24 8]

/-- The instruction at the front of some bytes, and the bytes after it: an ARM instruction of four bytes or a Thumb
instruction of two (R65, R161). -/
def decodeBytes (bigend thumb : Bool) (bs : List Byte) : Except DecodeError (Instr × List Byte) :=
  match thumb, bs with
  | false, b0 :: b1 :: b2 :: b3 :: rest => .ok (decodeArm (joinWord bigend b0 b1 b2 b3), rest)
  | true, b0 :: b1 :: rest => .ok (decodeThumb (joinHalf bigend b0 b1), rest)
  | _, _ => .error .truncated

/-- The bytes of an encoded instruction in address order. -/
def Encoding.bytes (bigend : Bool) : Encoding → List Byte
  | .arm w => splitWord bigend w
  | .thumb h => splitHalf bigend h

/-- The instruction the decoder reads from a row of spec/opcode_table.json whose bits are `w`: 16 bits are a Thumb
halfword, anything longer an ARM word, laid out little-endian (R63). -/
def decodeTableWord (nbits w : Nat) : Option Instr :=
  let bytes := if nbits ≤ 16 then splitHalf false (BitVec.ofNat 16 w) else splitWord false (BitVec.ofNat 32 w)
  match decodeBytes false (decide (nbits ≤ 16)) bytes with
  | .ok (i, _) => some i
  | .error _ => none

/-! ## The encoder -/

/-- The word or halfword of an instruction, written from the layouts of R110 to R143 and of the Thumb rules
(R463 to R528). -/
def encode : Instr → Encoding
  | .pldImm u rn imm12 => .arm (0b11110101#8 ++ BitVec.ofBool u ++ 0b101#3 ++ rn ++ 0b1111#4 ++ imm12)
  | .pldReg u rn shiftImm sh rm => .arm (0b11110111#8 ++ BitVec.ofBool u ++ 0b101#3 ++ rn ++ 0b1111#4 ++ shiftImm ++
      sh.bits ++ 0b0#1 ++ rm)
  | .blxImm h offset24 => .arm (0b1111101#7 ++ BitVec.ofBool h ++ offset24)
  | .undefCoprocExtUncond n low => .arm (0b111111000#9 ++ BitVec.ofBool n ++ 0b0#1 ++ low)
  | .ldc2 p u n w rn crd cp offset8 => .arm (0b1111110#7 ++ BitVec.ofBool p ++ BitVec.ofBool u ++ BitVec.ofBool n ++
      BitVec.ofBool w ++ 0b1#1 ++ rn ++ crd ++ cp ++ offset8)
  | .stc2 p u n w rn crd cp offset8 => .arm (0b1111110#7 ++ BitVec.ofBool p ++ BitVec.ofBool u ++ BitVec.ofBool n ++
      BitVec.ofBool w ++ 0b0#1 ++ rn ++ crd ++ cp ++ offset8)
  | .cdp2 opcode1 crn crd cp opcode2 crm => .arm (0b11111110#8 ++ opcode1 ++ crn ++ crd ++ cp ++ opcode2 ++ 0b0#1 ++
      crm)
  | .mcr2 opcode1 crn rd cp opcode2 crm => .arm (0b11111110#8 ++ opcode1 ++ 0b0#1 ++ crn ++ rd ++ cp ++ opcode2 ++
      0b1#1 ++ crm)
  | .mrc2 opcode1 crn rd cp opcode2 crm => .arm (0b11111110#8 ++ opcode1 ++ 0b1#1 ++ crn ++ rd ++ cp ++ opcode2 ++
      0b1#1 ++ crm)
  | .undefSwiUncond low => .arm (0b11111111#8 ++ low)
  | .undefBlockUncond low => .arm (0b1111100#7 ++ low)
  | .undefUncond low => .arm (0b1111#4 ++ low)
  | .clz c sbo1 rd sbo2 rm => .arm (c.bits ++ 0b00010110#8 ++ sbo1 ++ rd ++ sbo2 ++ 0b0001#4 ++ rm)
  | .bkpt c immHi immLo => .arm (c.bits ++ 0b00010010#8 ++ immHi ++ 0b0111#4 ++ immLo)
  | .bx c sbo rm => .arm (c.bits ++ 0b00010010#8 ++ sbo ++ 0b0001#4 ++ rm)
  | .blxReg c sbo rm => .arm (c.bits ++ 0b00010010#8 ++ sbo ++ 0b0011#4 ++ rm)
  | .swp c rn rd sbz rm => .arm (c.bits ++ 0b00010000#8 ++ rn ++ rd ++ sbz ++ 0b1001#4 ++ rm)
  | .swpb c rn rd sbz rm => .arm (c.bits ++ 0b00010100#8 ++ rn ++ rd ++ sbz ++ 0b1001#4 ++ rm)
  | .qadd c rn rd sbz rm => .arm (c.bits ++ 0b00010000#8 ++ rn ++ rd ++ sbz ++ 0b0101#4 ++ rm)
  | .qsub c rn rd sbz rm => .arm (c.bits ++ 0b00010010#8 ++ rn ++ rd ++ sbz ++ 0b0101#4 ++ rm)
  | .qdadd c rn rd sbz rm => .arm (c.bits ++ 0b00010100#8 ++ rn ++ rd ++ sbz ++ 0b0101#4 ++ rm)
  | .qdsub c rn rd sbz rm => .arm (c.bits ++ 0b00010110#8 ++ rn ++ rd ++ sbz ++ 0b0101#4 ++ rm)
  | .mul c sf rd sbz rs rm => .arm (c.bits ++ 0b0000000#7 ++ BitVec.ofBool sf ++ rd ++ sbz ++ rs ++ 0b1001#4 ++ rm)
  | .mla c sf rd rn rs rm => .arm (c.bits ++ 0b0000001#7 ++ BitVec.ofBool sf ++ rd ++ rn ++ rs ++ 0b1001#4 ++ rm)
  | .umull c sf rdHi rdLo rs rm => .arm (c.bits ++ 0b0000100#7 ++ BitVec.ofBool sf ++ rdHi ++ rdLo ++ rs ++ 0b1001#4 ++
      rm)
  | .umlal c sf rdHi rdLo rs rm => .arm (c.bits ++ 0b0000101#7 ++ BitVec.ofBool sf ++ rdHi ++ rdLo ++ rs ++ 0b1001#4 ++
      rm)
  | .smull c sf rdHi rdLo rs rm => .arm (c.bits ++ 0b0000110#7 ++ BitVec.ofBool sf ++ rdHi ++ rdLo ++ rs ++ 0b1001#4 ++
      rm)
  | .smlal c sf rdHi rdLo rs rm => .arm (c.bits ++ 0b0000111#7 ++ BitVec.ofBool sf ++ rdHi ++ rdLo ++ rs ++ 0b1001#4 ++
      rm)
  | .undefArith c op mid low => .arm (c.bits ++ 0b000#3 ++ op ++ mid ++ 0b1001#4 ++ low)
  | .smlaxy c rd rn rs y x rm => .arm (c.bits ++ 0b00010000#8 ++ rd ++ rn ++ rs ++ 0b1#1 ++ BitVec.ofBool y ++
      BitVec.ofBool x ++ 0b0#1 ++ rm)
  | .smlawy c rd rn rs y rm => .arm (c.bits ++ 0b00010010#8 ++ rd ++ rn ++ rs ++ 0b1#1 ++ BitVec.ofBool y ++ 0b00#2 ++
      rm)
  | .smulwy c rd sbz rs y rm => .arm (c.bits ++ 0b00010010#8 ++ rd ++ sbz ++ rs ++ 0b1#1 ++ BitVec.ofBool y ++ 0b10#2
      ++ rm)
  | .smlalxy c rdHi rdLo rs y x rm => .arm (c.bits ++ 0b00010100#8 ++ rdHi ++ rdLo ++ rs ++ 0b1#1 ++ BitVec.ofBool y ++
      BitVec.ofBool x ++ 0b0#1 ++ rm)
  | .smulxy c rd sbz rs y x rm => .arm (c.bits ++ 0b00010110#8 ++ rd ++ sbz ++ rs ++ 0b1#1 ++ BitVec.ofBool y ++
      BitVec.ofBool x ++ 0b0#1 ++ rm)
  | .msrReg c r mask sbo sbzHi sbzLo rm => .arm (c.bits ++ 0b00010#5 ++ BitVec.ofBool r ++ 0b10#2 ++ mask ++ sbo ++
      sbzHi ++ 0b0#1 ++ sbzLo ++ 0b0#1 ++ rm)
  | .strhReg c p u w rn rd sbz rm => .arm (c.bits ++ 0b000#3 ++ BitVec.ofBool p ++ BitVec.ofBool u ++ 0b0#1 ++
      BitVec.ofBool w ++ 0b0#1 ++ rn ++ rd ++ sbz ++ 0b1011#4 ++ rm)
  | .ldrhReg c p u w rn rd sbz rm => .arm (c.bits ++ 0b000#3 ++ BitVec.ofBool p ++ BitVec.ofBool u ++ 0b0#1 ++
      BitVec.ofBool w ++ 0b1#1 ++ rn ++ rd ++ sbz ++ 0b1011#4 ++ rm)
  | .ldrsbReg c p u w rn rd sbz rm => .arm (c.bits ++ 0b000#3 ++ BitVec.ofBool p ++ BitVec.ofBool u ++ 0b0#1 ++
      BitVec.ofBool w ++ 0b1#1 ++ rn ++ rd ++ sbz ++ 0b1101#4 ++ rm)
  | .ldrshReg c p u w rn rd sbz rm => .arm (c.bits ++ 0b000#3 ++ BitVec.ofBool p ++ BitVec.ofBool u ++ 0b0#1 ++
      BitVec.ofBool w ++ 0b1#1 ++ rn ++ rd ++ sbz ++ 0b1111#4 ++ rm)
  | .strhImm c p u w rn rd offHi offLo => .arm (c.bits ++ 0b000#3 ++ BitVec.ofBool p ++ BitVec.ofBool u ++ 0b1#1 ++
      BitVec.ofBool w ++ 0b0#1 ++ rn ++ rd ++ offHi ++ 0b1011#4 ++ offLo)
  | .ldrhImm c p u w rn rd offHi offLo => .arm (c.bits ++ 0b000#3 ++ BitVec.ofBool p ++ BitVec.ofBool u ++ 0b1#1 ++
      BitVec.ofBool w ++ 0b1#1 ++ rn ++ rd ++ offHi ++ 0b1011#4 ++ offLo)
  | .ldrdReg c p u w rn rd sbz rm => .arm (c.bits ++ 0b000#3 ++ BitVec.ofBool p ++ BitVec.ofBool u ++ 0b0#1 ++
      BitVec.ofBool w ++ 0b0#1 ++ rn ++ rd ++ sbz ++ 0b1101#4 ++ rm)
  | .strdReg c p u w rn rd sbz rm => .arm (c.bits ++ 0b000#3 ++ BitVec.ofBool p ++ BitVec.ofBool u ++ 0b0#1 ++
      BitVec.ofBool w ++ 0b0#1 ++ rn ++ rd ++ sbz ++ 0b1111#4 ++ rm)
  | .ldrdImm c p u w rn rd offHi offLo => .arm (c.bits ++ 0b000#3 ++ BitVec.ofBool p ++ BitVec.ofBool u ++ 0b1#1 ++
      BitVec.ofBool w ++ 0b0#1 ++ rn ++ rd ++ offHi ++ 0b1101#4 ++ offLo)
  | .strdImm c p u w rn rd offHi offLo => .arm (c.bits ++ 0b000#3 ++ BitVec.ofBool p ++ BitVec.ofBool u ++ 0b1#1 ++
      BitVec.ofBool w ++ 0b0#1 ++ rn ++ rd ++ offHi ++ 0b1111#4 ++ offLo)
  | .ldrsbImm c p u w rn rd offHi offLo => .arm (c.bits ++ 0b000#3 ++ BitVec.ofBool p ++ BitVec.ofBool u ++ 0b1#1 ++
      BitVec.ofBool w ++ 0b1#1 ++ rn ++ rd ++ offHi ++ 0b1101#4 ++ offLo)
  | .ldrshImm c p u w rn rd offHi offLo => .arm (c.bits ++ 0b000#3 ++ BitVec.ofBool p ++ BitVec.ofBool u ++ 0b1#1 ++
      BitVec.ofBool w ++ 0b1#1 ++ rn ++ rd ++ offHi ++ 0b1111#4 ++ offLo)
  | .mrs c r sbo rd sbz => .arm (c.bits ++ 0b00010#5 ++ BitVec.ofBool r ++ 0b00#2 ++ sbo ++ rd ++ sbz)
  | .msrImm c r mask sbo rotate imm8 => .arm (c.bits ++ 0b00110#5 ++ BitVec.ofBool r ++ 0b10#2 ++ mask ++ sbo ++ rotate
      ++ imm8)
  | .undefImmCompare c r low => .arm (c.bits ++ 0b00110#5 ++ BitVec.ofBool r ++ 0b00#2 ++ low)
  | .undefCompare c op low => .arm (c.bits ++ 0b00010#5 ++ op ++ 0b0#1 ++ low)
  | .cdp c opcode1 crn crd cp opcode2 crm => .arm (c.bits ++ 0b1110#4 ++ opcode1 ++ crn ++ crd ++ cp ++ opcode2 ++
      0b0#1 ++ crm)
  | .mcr c opcode1 crn rd cp opcode2 crm => .arm (c.bits ++ 0b1110#4 ++ opcode1 ++ 0b0#1 ++ crn ++ rd ++ cp ++ opcode2
      ++ 0b1#1 ++ crm)
  | .mrc c opcode1 crn rd cp opcode2 crm => .arm (c.bits ++ 0b1110#4 ++ opcode1 ++ 0b1#1 ++ crn ++ rd ++ cp ++ opcode2
      ++ 0b1#1 ++ crm)
  | .andRegShift c sf rn rd rs sh rm => .arm (c.bits ++ 0b0000000#7 ++ BitVec.ofBool sf ++ rn ++ rd ++ rs ++ 0b0#1 ++
      sh.bits ++ 0b1#1 ++ rm)
  | .eorRegShift c sf rn rd rs sh rm => .arm (c.bits ++ 0b0000001#7 ++ BitVec.ofBool sf ++ rn ++ rd ++ rs ++ 0b0#1 ++
      sh.bits ++ 0b1#1 ++ rm)
  | .subRegShift c sf rn rd rs sh rm => .arm (c.bits ++ 0b0000010#7 ++ BitVec.ofBool sf ++ rn ++ rd ++ rs ++ 0b0#1 ++
      sh.bits ++ 0b1#1 ++ rm)
  | .rsbRegShift c sf rn rd rs sh rm => .arm (c.bits ++ 0b0000011#7 ++ BitVec.ofBool sf ++ rn ++ rd ++ rs ++ 0b0#1 ++
      sh.bits ++ 0b1#1 ++ rm)
  | .addRegShift c sf rn rd rs sh rm => .arm (c.bits ++ 0b0000100#7 ++ BitVec.ofBool sf ++ rn ++ rd ++ rs ++ 0b0#1 ++
      sh.bits ++ 0b1#1 ++ rm)
  | .adcRegShift c sf rn rd rs sh rm => .arm (c.bits ++ 0b0000101#7 ++ BitVec.ofBool sf ++ rn ++ rd ++ rs ++ 0b0#1 ++
      sh.bits ++ 0b1#1 ++ rm)
  | .sbcRegShift c sf rn rd rs sh rm => .arm (c.bits ++ 0b0000110#7 ++ BitVec.ofBool sf ++ rn ++ rd ++ rs ++ 0b0#1 ++
      sh.bits ++ 0b1#1 ++ rm)
  | .rscRegShift c sf rn rd rs sh rm => .arm (c.bits ++ 0b0000111#7 ++ BitVec.ofBool sf ++ rn ++ rd ++ rs ++ 0b0#1 ++
      sh.bits ++ 0b1#1 ++ rm)
  | .tstRegShift c rn sbz rs sh rm => .arm (c.bits ++ 0b00010001#8 ++ rn ++ sbz ++ rs ++ 0b0#1 ++ sh.bits ++ 0b1#1 ++
      rm)
  | .teqRegShift c rn sbz rs sh rm => .arm (c.bits ++ 0b00010011#8 ++ rn ++ sbz ++ rs ++ 0b0#1 ++ sh.bits ++ 0b1#1 ++
      rm)
  | .cmpRegShift c rn sbz rs sh rm => .arm (c.bits ++ 0b00010101#8 ++ rn ++ sbz ++ rs ++ 0b0#1 ++ sh.bits ++ 0b1#1 ++
      rm)
  | .cmnRegShift c rn sbz rs sh rm => .arm (c.bits ++ 0b00010111#8 ++ rn ++ sbz ++ rs ++ 0b0#1 ++ sh.bits ++ 0b1#1 ++
      rm)
  | .orrRegShift c sf rn rd rs sh rm => .arm (c.bits ++ 0b0001100#7 ++ BitVec.ofBool sf ++ rn ++ rd ++ rs ++ 0b0#1 ++
      sh.bits ++ 0b1#1 ++ rm)
  | .movRegShift c sf sbz rd rs sh rm => .arm (c.bits ++ 0b0001101#7 ++ BitVec.ofBool sf ++ sbz ++ rd ++ rs ++ 0b0#1 ++
      sh.bits ++ 0b1#1 ++ rm)
  | .bicRegShift c sf rn rd rs sh rm => .arm (c.bits ++ 0b0001110#7 ++ BitVec.ofBool sf ++ rn ++ rd ++ rs ++ 0b0#1 ++
      sh.bits ++ 0b1#1 ++ rm)
  | .mvnRegShift c sf sbz rd rs sh rm => .arm (c.bits ++ 0b0001111#7 ++ BitVec.ofBool sf ++ sbz ++ rd ++ rs ++ 0b0#1 ++
      sh.bits ++ 0b1#1 ++ rm)
  | .andImmShift c sf rn rd shiftImm sh rm => .arm (c.bits ++ 0b0000000#7 ++ BitVec.ofBool sf ++ rn ++ rd ++ shiftImm
      ++ sh.bits ++ 0b0#1 ++ rm)
  | .eorImmShift c sf rn rd shiftImm sh rm => .arm (c.bits ++ 0b0000001#7 ++ BitVec.ofBool sf ++ rn ++ rd ++ shiftImm
      ++ sh.bits ++ 0b0#1 ++ rm)
  | .subImmShift c sf rn rd shiftImm sh rm => .arm (c.bits ++ 0b0000010#7 ++ BitVec.ofBool sf ++ rn ++ rd ++ shiftImm
      ++ sh.bits ++ 0b0#1 ++ rm)
  | .rsbImmShift c sf rn rd shiftImm sh rm => .arm (c.bits ++ 0b0000011#7 ++ BitVec.ofBool sf ++ rn ++ rd ++ shiftImm
      ++ sh.bits ++ 0b0#1 ++ rm)
  | .addImmShift c sf rn rd shiftImm sh rm => .arm (c.bits ++ 0b0000100#7 ++ BitVec.ofBool sf ++ rn ++ rd ++ shiftImm
      ++ sh.bits ++ 0b0#1 ++ rm)
  | .adcImmShift c sf rn rd shiftImm sh rm => .arm (c.bits ++ 0b0000101#7 ++ BitVec.ofBool sf ++ rn ++ rd ++ shiftImm
      ++ sh.bits ++ 0b0#1 ++ rm)
  | .sbcImmShift c sf rn rd shiftImm sh rm => .arm (c.bits ++ 0b0000110#7 ++ BitVec.ofBool sf ++ rn ++ rd ++ shiftImm
      ++ sh.bits ++ 0b0#1 ++ rm)
  | .rscImmShift c sf rn rd shiftImm sh rm => .arm (c.bits ++ 0b0000111#7 ++ BitVec.ofBool sf ++ rn ++ rd ++ shiftImm
      ++ sh.bits ++ 0b0#1 ++ rm)
  | .tstImmShift c rn sbz shiftImm sh rm => .arm (c.bits ++ 0b00010001#8 ++ rn ++ sbz ++ shiftImm ++ sh.bits ++ 0b0#1
      ++ rm)
  | .teqImmShift c rn sbz shiftImm sh rm => .arm (c.bits ++ 0b00010011#8 ++ rn ++ sbz ++ shiftImm ++ sh.bits ++ 0b0#1
      ++ rm)
  | .cmpImmShift c rn sbz shiftImm sh rm => .arm (c.bits ++ 0b00010101#8 ++ rn ++ sbz ++ shiftImm ++ sh.bits ++ 0b0#1
      ++ rm)
  | .cmnImmShift c rn sbz shiftImm sh rm => .arm (c.bits ++ 0b00010111#8 ++ rn ++ sbz ++ shiftImm ++ sh.bits ++ 0b0#1
      ++ rm)
  | .orrImmShift c sf rn rd shiftImm sh rm => .arm (c.bits ++ 0b0001100#7 ++ BitVec.ofBool sf ++ rn ++ rd ++ shiftImm
      ++ sh.bits ++ 0b0#1 ++ rm)
  | .movImmShift c sf sbz rd shiftImm sh rm => .arm (c.bits ++ 0b0001101#7 ++ BitVec.ofBool sf ++ sbz ++ rd ++ shiftImm
      ++ sh.bits ++ 0b0#1 ++ rm)
  | .bicImmShift c sf rn rd shiftImm sh rm => .arm (c.bits ++ 0b0001110#7 ++ BitVec.ofBool sf ++ rn ++ rd ++ shiftImm
      ++ sh.bits ++ 0b0#1 ++ rm)
  | .mvnImmShift c sf sbz rd shiftImm sh rm => .arm (c.bits ++ 0b0001111#7 ++ BitVec.ofBool sf ++ sbz ++ rd ++ shiftImm
      ++ sh.bits ++ 0b0#1 ++ rm)
  | .strtReg c u rn rd shiftImm sh rm => .arm (c.bits ++ 0b011#3 ++ 0b0#1 ++ BitVec.ofBool u ++ 0b010#3 ++ rn ++ rd ++
      shiftImm ++ sh.bits ++ 0b0#1 ++ rm)
  | .ldrtReg c u rn rd shiftImm sh rm => .arm (c.bits ++ 0b011#3 ++ 0b0#1 ++ BitVec.ofBool u ++ 0b011#3 ++ rn ++ rd ++
      shiftImm ++ sh.bits ++ 0b0#1 ++ rm)
  | .strbtReg c u rn rd shiftImm sh rm => .arm (c.bits ++ 0b011#3 ++ 0b0#1 ++ BitVec.ofBool u ++ 0b110#3 ++ rn ++ rd ++
      shiftImm ++ sh.bits ++ 0b0#1 ++ rm)
  | .ldrbtReg c u rn rd shiftImm sh rm => .arm (c.bits ++ 0b011#3 ++ 0b0#1 ++ BitVec.ofBool u ++ 0b111#3 ++ rn ++ rd ++
      shiftImm ++ sh.bits ++ 0b0#1 ++ rm)
  | .strReg c p u w rn rd shiftImm sh rm => .arm (c.bits ++ 0b011#3 ++ BitVec.ofBool p ++ BitVec.ofBool u ++ 0b0#1 ++
      BitVec.ofBool w ++ 0b0#1 ++ rn ++ rd ++ shiftImm ++ sh.bits ++ 0b0#1 ++ rm)
  | .ldrReg c p u w rn rd shiftImm sh rm => .arm (c.bits ++ 0b011#3 ++ BitVec.ofBool p ++ BitVec.ofBool u ++ 0b0#1 ++
      BitVec.ofBool w ++ 0b1#1 ++ rn ++ rd ++ shiftImm ++ sh.bits ++ 0b0#1 ++ rm)
  | .strbReg c p u w rn rd shiftImm sh rm => .arm (c.bits ++ 0b011#3 ++ BitVec.ofBool p ++ BitVec.ofBool u ++ 0b1#1 ++
      BitVec.ofBool w ++ 0b0#1 ++ rn ++ rd ++ shiftImm ++ sh.bits ++ 0b0#1 ++ rm)
  | .ldrbReg c p u w rn rd shiftImm sh rm => .arm (c.bits ++ 0b011#3 ++ BitVec.ofBool p ++ BitVec.ofBool u ++ 0b1#1 ++
      BitVec.ofBool w ++ 0b1#1 ++ rn ++ rd ++ shiftImm ++ sh.bits ++ 0b0#1 ++ rm)
  | .undefMedia c high low => .arm (c.bits ++ 0b011#3 ++ high ++ 0b1#1 ++ low)
  | .swi c number => .arm (c.bits ++ 0b1111#4 ++ number)
  | .andImm c sf rn rd rotate imm8 => .arm (c.bits ++ 0b0010000#7 ++ BitVec.ofBool sf ++ rn ++ rd ++ rotate ++ imm8)
  | .eorImm c sf rn rd rotate imm8 => .arm (c.bits ++ 0b0010001#7 ++ BitVec.ofBool sf ++ rn ++ rd ++ rotate ++ imm8)
  | .subImm c sf rn rd rotate imm8 => .arm (c.bits ++ 0b0010010#7 ++ BitVec.ofBool sf ++ rn ++ rd ++ rotate ++ imm8)
  | .rsbImm c sf rn rd rotate imm8 => .arm (c.bits ++ 0b0010011#7 ++ BitVec.ofBool sf ++ rn ++ rd ++ rotate ++ imm8)
  | .addImm c sf rn rd rotate imm8 => .arm (c.bits ++ 0b0010100#7 ++ BitVec.ofBool sf ++ rn ++ rd ++ rotate ++ imm8)
  | .adcImm c sf rn rd rotate imm8 => .arm (c.bits ++ 0b0010101#7 ++ BitVec.ofBool sf ++ rn ++ rd ++ rotate ++ imm8)
  | .sbcImm c sf rn rd rotate imm8 => .arm (c.bits ++ 0b0010110#7 ++ BitVec.ofBool sf ++ rn ++ rd ++ rotate ++ imm8)
  | .rscImm c sf rn rd rotate imm8 => .arm (c.bits ++ 0b0010111#7 ++ BitVec.ofBool sf ++ rn ++ rd ++ rotate ++ imm8)
  | .tstImm c rn sbz rotate imm8 => .arm (c.bits ++ 0b00110001#8 ++ rn ++ sbz ++ rotate ++ imm8)
  | .teqImm c rn sbz rotate imm8 => .arm (c.bits ++ 0b00110011#8 ++ rn ++ sbz ++ rotate ++ imm8)
  | .cmpImm c rn sbz rotate imm8 => .arm (c.bits ++ 0b00110101#8 ++ rn ++ sbz ++ rotate ++ imm8)
  | .cmnImm c rn sbz rotate imm8 => .arm (c.bits ++ 0b00110111#8 ++ rn ++ sbz ++ rotate ++ imm8)
  | .orrImm c sf rn rd rotate imm8 => .arm (c.bits ++ 0b0011100#7 ++ BitVec.ofBool sf ++ rn ++ rd ++ rotate ++ imm8)
  | .movImm c sf sbz rd rotate imm8 => .arm (c.bits ++ 0b0011101#7 ++ BitVec.ofBool sf ++ sbz ++ rd ++ rotate ++ imm8)
  | .bicImm c sf rn rd rotate imm8 => .arm (c.bits ++ 0b0011110#7 ++ BitVec.ofBool sf ++ rn ++ rd ++ rotate ++ imm8)
  | .mvnImm c sf sbz rd rotate imm8 => .arm (c.bits ++ 0b0011111#7 ++ BitVec.ofBool sf ++ sbz ++ rd ++ rotate ++ imm8)
  | .strtImm c u rn rd imm12 => .arm (c.bits ++ 0b010#3 ++ 0b0#1 ++ BitVec.ofBool u ++ 0b010#3 ++ rn ++ rd ++ imm12)
  | .ldrtImm c u rn rd imm12 => .arm (c.bits ++ 0b010#3 ++ 0b0#1 ++ BitVec.ofBool u ++ 0b011#3 ++ rn ++ rd ++ imm12)
  | .strbtImm c u rn rd imm12 => .arm (c.bits ++ 0b010#3 ++ 0b0#1 ++ BitVec.ofBool u ++ 0b110#3 ++ rn ++ rd ++ imm12)
  | .ldrbtImm c u rn rd imm12 => .arm (c.bits ++ 0b010#3 ++ 0b0#1 ++ BitVec.ofBool u ++ 0b111#3 ++ rn ++ rd ++ imm12)
  | .strImm c p u w rn rd imm12 => .arm (c.bits ++ 0b010#3 ++ BitVec.ofBool p ++ BitVec.ofBool u ++ 0b0#1 ++
      BitVec.ofBool w ++ 0b0#1 ++ rn ++ rd ++ imm12)
  | .ldrImm c p u w rn rd imm12 => .arm (c.bits ++ 0b010#3 ++ BitVec.ofBool p ++ BitVec.ofBool u ++ 0b0#1 ++
      BitVec.ofBool w ++ 0b1#1 ++ rn ++ rd ++ imm12)
  | .strbImm c p u w rn rd imm12 => .arm (c.bits ++ 0b010#3 ++ BitVec.ofBool p ++ BitVec.ofBool u ++ 0b1#1 ++
      BitVec.ofBool w ++ 0b0#1 ++ rn ++ rd ++ imm12)
  | .ldrbImm c p u w rn rd imm12 => .arm (c.bits ++ 0b010#3 ++ BitVec.ofBool p ++ BitVec.ofBool u ++ 0b1#1 ++
      BitVec.ofBool w ++ 0b1#1 ++ rn ++ rd ++ imm12)
  | .ldm1 c p u w rn list => .arm (c.bits ++ 0b100#3 ++ BitVec.ofBool p ++ BitVec.ofBool u ++ 0b0#1 ++ BitVec.ofBool w
      ++ 0b1#1 ++ rn ++ list)
  | .ldm2 c p u w rn list => .arm (c.bits ++ 0b100#3 ++ BitVec.ofBool p ++ BitVec.ofBool u ++ 0b1#1 ++ BitVec.ofBool w
      ++ 0b1#1 ++ rn ++ 0b0#1 ++ list)
  | .ldm3 c p u w rn list => .arm (c.bits ++ 0b100#3 ++ BitVec.ofBool p ++ BitVec.ofBool u ++ 0b1#1 ++ BitVec.ofBool w
      ++ 0b1#1 ++ rn ++ 0b1#1 ++ list)
  | .stm1 c p u w rn list => .arm (c.bits ++ 0b100#3 ++ BitVec.ofBool p ++ BitVec.ofBool u ++ 0b0#1 ++ BitVec.ofBool w
      ++ 0b0#1 ++ rn ++ list)
  | .stm2 c p u w rn list => .arm (c.bits ++ 0b100#3 ++ BitVec.ofBool p ++ BitVec.ofBool u ++ 0b1#1 ++ BitVec.ofBool w
      ++ 0b0#1 ++ rn ++ list)
  | .b c offset24 => .arm (c.bits ++ 0b1010#4 ++ offset24)
  | .bl c offset24 => .arm (c.bits ++ 0b1011#4 ++ offset24)
  | .undefCoprocExt c low => .arm (c.bits ++ 0b1100000#7 ++ low)
  | .mcrr c rn rd cp opcode crm => .arm (c.bits ++ 0b11000100#8 ++ rn ++ rd ++ cp ++ opcode ++ crm)
  | .mrrc c rn rd cp opcode crm => .arm (c.bits ++ 0b11000101#8 ++ rn ++ rd ++ cp ++ opcode ++ crm)
  | .ldc c p u n w rn crd cp offset8 => .arm (c.bits ++ 0b110#3 ++ BitVec.ofBool p ++ BitVec.ofBool u ++ BitVec.ofBool
      n ++ BitVec.ofBool w ++ 0b1#1 ++ rn ++ crd ++ cp ++ offset8)
  | .stc c p u n w rn crd cp offset8 => .arm (c.bits ++ 0b110#3 ++ BitVec.ofBool p ++ BitVec.ofBool u ++ BitVec.ofBool
      n ++ BitVec.ofBool w ++ 0b0#1 ++ rn ++ crd ++ cp ++ offset8)
  | .tAdd3 rm rn rd => .thumb (0b0001100#7 ++ rm ++ rn ++ rd)
  | .tSub3 rm rn rd => .thumb (0b0001101#7 ++ rm ++ rn ++ rd)
  | .tAdd1 imm3 rn rd => .thumb (0b0001110#7 ++ imm3 ++ rn ++ rd)
  | .tSub1 imm3 rn rd => .thumb (0b0001111#7 ++ imm3 ++ rn ++ rd)
  | .tLsl1 imm5 rm rd => .thumb (0b00000#5 ++ imm5 ++ rm ++ rd)
  | .tLsr1 imm5 rm rd => .thumb (0b00001#5 ++ imm5 ++ rm ++ rd)
  | .tAsr1 imm5 rm rd => .thumb (0b00010#5 ++ imm5 ++ rm ++ rd)
  | .tMov1 rd imm8 => .thumb (0b00100#5 ++ rd ++ imm8)
  | .tCmp1 rn imm8 => .thumb (0b00101#5 ++ rn ++ imm8)
  | .tAdd2 rd imm8 => .thumb (0b00110#5 ++ rd ++ imm8)
  | .tSub2 rd imm8 => .thumb (0b00111#5 ++ rd ++ imm8)
  | .tAnd rm rd => .thumb (0b0100000000#10 ++ rm ++ rd)
  | .tEor rm rd => .thumb (0b0100000001#10 ++ rm ++ rd)
  | .tLsl2 rm rd => .thumb (0b0100000010#10 ++ rm ++ rd)
  | .tLsr2 rm rd => .thumb (0b0100000011#10 ++ rm ++ rd)
  | .tAsr2 rm rd => .thumb (0b0100000100#10 ++ rm ++ rd)
  | .tAdc rm rd => .thumb (0b0100000101#10 ++ rm ++ rd)
  | .tSbc rm rd => .thumb (0b0100000110#10 ++ rm ++ rd)
  | .tRor rm rd => .thumb (0b0100000111#10 ++ rm ++ rd)
  | .tTst rm rd => .thumb (0b0100001000#10 ++ rm ++ rd)
  | .tNeg rm rd => .thumb (0b0100001001#10 ++ rm ++ rd)
  | .tCmp2 rm rd => .thumb (0b0100001010#10 ++ rm ++ rd)
  | .tCmn rm rd => .thumb (0b0100001011#10 ++ rm ++ rd)
  | .tOrr rm rd => .thumb (0b0100001100#10 ++ rm ++ rd)
  | .tMul rm rd => .thumb (0b0100001101#10 ++ rm ++ rd)
  | .tBic rm rd => .thumb (0b0100001110#10 ++ rm ++ rd)
  | .tMvn rm rd => .thumb (0b0100001111#10 ++ rm ++ rd)
  | .tAdd4 h1 h2 rm rd => .thumb (0b01000100#8 ++ BitVec.ofBool h1 ++ BitVec.ofBool h2 ++ rm ++ rd)
  | .tCmp3 h1 h2 rm rd => .thumb (0b01000101#8 ++ BitVec.ofBool h1 ++ BitVec.ofBool h2 ++ rm ++ rd)
  | .tMov3 h1 h2 rm rd => .thumb (0b01000110#8 ++ BitVec.ofBool h1 ++ BitVec.ofBool h2 ++ rm ++ rd)
  | .tBx h2 rm sbz => .thumb (0b010001110#9 ++ BitVec.ofBool h2 ++ rm ++ sbz)
  | .tBlx2 h2 rm sbz => .thumb (0b010001111#9 ++ BitVec.ofBool h2 ++ rm ++ sbz)
  | .tLdr3 rd imm8 => .thumb (0b01001#5 ++ rd ++ imm8)
  | .tStr2 rm rn rd => .thumb (0b0101000#7 ++ rm ++ rn ++ rd)
  | .tStrh2 rm rn rd => .thumb (0b0101001#7 ++ rm ++ rn ++ rd)
  | .tStrb2 rm rn rd => .thumb (0b0101010#7 ++ rm ++ rn ++ rd)
  | .tLdrsb rm rn rd => .thumb (0b0101011#7 ++ rm ++ rn ++ rd)
  | .tLdr2 rm rn rd => .thumb (0b0101100#7 ++ rm ++ rn ++ rd)
  | .tLdrh2 rm rn rd => .thumb (0b0101101#7 ++ rm ++ rn ++ rd)
  | .tLdrb2 rm rn rd => .thumb (0b0101110#7 ++ rm ++ rn ++ rd)
  | .tLdrsh rm rn rd => .thumb (0b0101111#7 ++ rm ++ rn ++ rd)
  | .tStr1 imm5 rn rd => .thumb (0b01100#5 ++ imm5 ++ rn ++ rd)
  | .tLdr1 imm5 rn rd => .thumb (0b01101#5 ++ imm5 ++ rn ++ rd)
  | .tStrb1 imm5 rn rd => .thumb (0b01110#5 ++ imm5 ++ rn ++ rd)
  | .tLdrb1 imm5 rn rd => .thumb (0b01111#5 ++ imm5 ++ rn ++ rd)
  | .tStrh1 imm5 rn rd => .thumb (0b10000#5 ++ imm5 ++ rn ++ rd)
  | .tLdrh1 imm5 rn rd => .thumb (0b10001#5 ++ imm5 ++ rn ++ rd)
  | .tStr3 rd imm8 => .thumb (0b10010#5 ++ rd ++ imm8)
  | .tLdr4 rd imm8 => .thumb (0b10011#5 ++ rd ++ imm8)
  | .tAdd5 rd imm8 => .thumb (0b10100#5 ++ rd ++ imm8)
  | .tAdd6 rd imm8 => .thumb (0b10101#5 ++ rd ++ imm8)
  | .tAdd7 imm7 => .thumb (0b101100000#9 ++ imm7)
  | .tSub4 imm7 => .thumb (0b101100001#9 ++ imm7)
  | .tPush r list => .thumb (0b1011010#7 ++ BitVec.ofBool r ++ list)
  | .tPop r list => .thumb (0b1011110#7 ++ BitVec.ofBool r ++ list)
  | .tBkpt imm8 => .thumb (0b10111110#8 ++ imm8)
  | .tUndefMisc op low => .thumb (0b1011#4 ++ op ++ low)
  | .tStmia rn list => .thumb (0b11000#5 ++ rn ++ list)
  | .tLdmia rn list => .thumb (0b11001#5 ++ rn ++ list)
  | .tUndefCond imm8 => .thumb (0b11011110#8 ++ imm8)
  | .tSwi imm8 => .thumb (0b11011111#8 ++ imm8)
  | .tB1 c imm8 => .thumb (0b1101#4 ++ c.bits ++ imm8)
  | .tB2 imm11 => .thumb (0b11100#5 ++ imm11)
  | .tUndefBlx high => .thumb (0b11101#5 ++ high ++ 0b1#1)
  | .tBlx1Suffix high => .thumb (0b11101#5 ++ high ++ 0b0#1)
  | .tBlPrefix offset11 => .thumb (0b11110#5 ++ offset11)
  | .tBlSuffix offset11 => .thumb (0b11111#5 ++ offset11)

end Sys2Proof
end

