-- ==== Sys2Proof/Machine/Bits.lean ====
section
/-! DEFINITION. Rotation, the rotated immediate and the high-register number: bit operations that the well-formedness
checks and the meanings share (R10, R150, R530). -/

namespace Sys2Proof.Machine

/-- `ROR(v, n)` (R10). -/
def ror (v : Word) (n : Nat) : Word := v.rotateRight n

/-- The data-processing immediate: the 8-bit value rotated right by twice the rotate field (R150). -/
def rotatedImmediate (rotate : BitVec 4) (imm8 : BitVec 8) : Word := ror (imm8.setWidth 32) (2 * rotate.toNat)

/-- The four-bit register number of a Thumb high-register operation: the H bit, then the field (R530). -/
def highReg (h : Bool) (r : LowReg) : Reg := BitVec.ofBool h ++ r

/-- The register number of a three-bit field: R0 to R7 (R529). -/
def lowReg (r : LowReg) : Reg := 0#1 ++ r

end Sys2Proof.Machine
end

