-- ==== Sys2Proof/Machine/Operands.lean ====
section
/-! DEFINITION. Operand forms, as functions of values: the shifter operand with its carry-out (R175 to R184, R372), the
addresses of single transfers (R291, R371, R444) and of block transfers (R390), register lists, and branch offsets
(R153). -/

namespace Sys2Proof.Machine

/-- The second operand of a data-processing instruction and the shifter's carry-out (R175). -/
structure Operand2 where
  value : Word
  carry : Bool
deriving DecidableEq, Repr

/-- The rotated immediate (R176). -/
def immOperand (rotate : BitVec 4) (imm8 : BitVec 8) (c : Bool) : Operand2 :=
  let v := rotatedImmediate rotate imm8
  { value := v, carry := if rotate = 0 then c else v.getLsbD 31 }

/-- A register shifted by an immediate (R177 to R180): amount 0 means no shift, LSR #32, ASR #32 and RRX. -/
def shiftByImm (sh : Shift) (v : Word) (n : BitVec 5) (c : Bool) : Operand2 :=
  match sh with
  | .lsl => if n = 0 then ⟨v, c⟩ else ⟨v <<< n.toNat, v.getLsbD (32 - n.toNat)⟩
  | .lsr => if n = 0 then ⟨0, v.getLsbD 31⟩ else ⟨v >>> n.toNat, v.getLsbD (n.toNat - 1)⟩
  | .asr =>
    if n = 0 then ⟨if v.getLsbD 31 then 0xFFFFFFFF else 0, v.getLsbD 31⟩
    else ⟨v.sshiftRight n.toNat, v.getLsbD (n.toNat - 1)⟩
  | .ror =>
    if n = 0 then ⟨(if c then 0x80000000 else 0) ||| v >>> 1, v.getLsbD 0⟩
    else ⟨ror v n.toNat, v.getLsbD (n.toNat - 1)⟩

/-- A register shifted by the low byte of another (R181 to R184). -/
def shiftByReg (sh : Shift) (v : Word) (amount : BitVec 8) (c : Bool) : Operand2 :=
  let s := amount.toNat
  match sh with
  | .lsl =>
    if s = 0 then ⟨v, c⟩
    else if s < 32 then ⟨v <<< s, v.getLsbD (32 - s)⟩
    else if s = 32 then ⟨0, v.getLsbD 0⟩
    else ⟨0, false⟩
  | .lsr =>
    if s = 0 then ⟨v, c⟩
    else if s < 32 then ⟨v >>> s, v.getLsbD (s - 1)⟩
    else if s = 32 then ⟨0, v.getLsbD 31⟩
    else ⟨0, false⟩
  | .asr =>
    if s = 0 then ⟨v, c⟩
    else if s < 32 then ⟨v.sshiftRight s, v.getLsbD (s - 1)⟩
    else ⟨if v.getLsbD 31 then 0xFFFFFFFF else 0, v.getLsbD 31⟩
  | .ror =>
    if s = 0 then ⟨v, c⟩
    else if s % 32 = 0 then ⟨v, v.getLsbD 31⟩
    else ⟨ror v (s % 32), v.getLsbD (s % 32 - 1)⟩

/-- The scaled register offset `index(Rm, shf, n)` (R372): the immediate-shift operand without its carry-out. -/
def index (sh : Shift) (v : Word) (n : BitVec 5) (c : Bool) : Word := (shiftByImm sh v n c).value

/-- The 8-bit offset of halfword, signed and doubleword transfers (R152, R290). -/
def splitOffset (hi lo : BitVec 4) : Word := (hi ++ lo).setWidth 32

/-- Where a transfer starts, and which register its addressing mode writes with what. -/
structure Address where
  start : Word
  writeBack : Option (Reg × Word)
deriving DecidableEq, Repr

/-- `base + offset` or `base - offset`, by U (R291, R371). -/
def target (u : Bool) (base offset : Word) : Word := if u then base + offset else base - offset

/-- Offset, pre-indexed and post-indexed addressing (R291, R371). -/
def indexed (p u w : Bool) (rn : Reg) (base offset : Word) : Address :=
  { start := if p then target u base offset else base
    writeBack := if p && !w then none else some (rn, target u base offset) }

/-- Coprocessor addressing (R444): offset, pre-indexed, post-indexed and unindexed. -/
def cpIndexed (p u w : Bool) (rn : Reg) (base : Word) (offset8 : BitVec 8) : Address :=
  let t := target u base (offset8.setWidth 32 <<< 2)
  { start := if p then t else base, writeBack := if w then some (rn, t) else none }

/-- The start address of a block transfer of `n` words (R390). -/
def blockStart (p u : Bool) (base : Word) (n : Nat) : Word :=
  match p, u with
  | false, true => base
  | true, true => base + 4
  | false, false => base - BitVec.ofNat 32 (4 * n) + 4
  | true, false => base - BitVec.ofNat 32 (4 * n)

/-- The base that a block transfer of `n` words writes back (R390). -/
def blockEnd (u : Bool) (base : Word) (n : Nat) : Word :=
  if u then base + BitVec.ofNat 32 (4 * n) else base - BitVec.ofNat 32 (4 * n)

/-- The registers of a list, lowest first (R157, R390). -/
def listRegs (list : BitVec 16) : List Reg :=
  (List.range 16).filterMap fun i => if list.getLsbD i then some (BitVec.ofNat 4 i) else none

/-- The addressing of a block transfer of the registers of `list` (R390, R391). -/
def block (p u w : Bool) (rn : Reg) (base : Word) (list : BitVec 16) : Address :=
  let n := (listRegs list).length
  { start := blockStart p u base n, writeBack := if w then some (rn, blockEnd u base n) else none }

/-- The byte offset of a branch that counts words (R153). -/
def wordOffset (offset24 : BitVec 24) : Int := 4 * offset24.toInt

/-- The aligned word address `a AND 0xFFFFFFFC` (R68). -/
def alignWord (a : Word) : Word := a &&& 0xFFFFFFFC

/-- The aligned halfword address `a AND 0xFFFFFFFE` (R28). -/
def alignHalf (a : Word) : Word := a &&& 0xFFFFFFFE

/-- `a[1:0]` (R68). -/
def lowTwo (a : Word) : BitVec 2 := a.extractLsb' 0 2

end Sys2Proof.Machine
end

