-- ==== Sys2Proof/Machine/Flags.lean ====
section
/-! DEFINITION. The program status registers' fields (R30), the condition test (R172), and what each data-processing
operation computes with its flags (R10, R322, R330 to R345, R360). -/

namespace Sys2Proof.Machine

/-! ## Fields of a program status register -/

/-- N, bit 31. -/
def Psr.n (p : Word) : Bool := p.getLsbD 31

/-- Z, bit 30. -/
def Psr.z (p : Word) : Bool := p.getLsbD 30

/-- C, bit 29. -/
def Psr.c (p : Word) : Bool := p.getLsbD 29

/-- V, bit 28. -/
def Psr.v (p : Word) : Bool := p.getLsbD 28

/-- Q, bit 27. -/
def Psr.q (p : Word) : Bool := p.getLsbD 27

/-- I, bit 7: IRQ masked. -/
def Psr.i (p : Word) : Bool := p.getLsbD 7

/-- F, bit 6: FIQ masked. -/
def Psr.f (p : Word) : Bool := p.getLsbD 6

/-- T, bit 5: Thumb state. -/
def Psr.t (p : Word) : Bool := p.getLsbD 5

/-- M, bits [4:0]: the mode. -/
def Psr.m (p : Word) : BitVec 5 := p.extractLsb' 0 5

/-- The reserved bits [26:8] (R37). -/
def Psr.reserved (p : Word) : BitVec 19 := p.extractLsb' 8 19

/-- A status register with new N, Z, C, V. -/
def Psr.withNZCV (p : Word) (n z c v : Bool) : Word :=
  BitVec.ofBool n ++ BitVec.ofBool z ++ BitVec.ofBool c ++ BitVec.ofBool v ++ p.extractLsb' 0 28

/-- A status register with a new T. -/
def Psr.withT (p : Word) (t : Bool) : Word := p.extractLsb' 6 26 ++ BitVec.ofBool t ++ p.extractLsb' 0 5

/-- A status register with Q set. -/
def Psr.withQ (p : Word) : Word := p.extractLsb' 28 4 ++ 1#1 ++ p.extractLsb' 0 27

/-- A status register with new I, F, T and mode. -/
def Psr.withControl (p : Word) (i f t : Bool) (m : BitVec 5) : Word :=
  p.extractLsb' 8 24 ++ BitVec.ofBool i ++ BitVec.ofBool f ++ BitVec.ofBool t ++ m

/-! ## The condition test -/

/-- Does the condition pass with the flags of this status register (R172)? -/
def Cond.holds (c : Cond) (p : Word) : Bool :=
  match c with
  | .eq => Psr.z p
  | .ne => !Psr.z p
  | .cs => Psr.c p
  | .cc => !Psr.c p
  | .mi => Psr.n p
  | .pl => !Psr.n p
  | .vs => Psr.v p
  | .vc => !Psr.v p
  | .hi => Psr.c p && !Psr.z p
  | .ls => !Psr.c p || Psr.z p
  | .ge => Psr.n p == Psr.v p
  | .lt => Psr.n p != Psr.v p
  | .gt => !Psr.z p && Psr.n p == Psr.v p
  | .le => Psr.z p || Psr.n p != Psr.v p
  | .al => true

/-! ## Carry, borrow, overflow, saturation (R10) -/

/-- A carry bit as a number. -/
def bit (b : Bool) : Nat := if b then 1 else 0

/-- Does the exact integer lie outside the signed 32-bit range? `DoesSat32`, and the test of `OverflowFrom`. -/
def outside32 (i : Int) : Bool := decide (i < -2 ^ 31) || decide (2 ^ 31 - 1 < i)

/-- `CarryFrom(a + b + c)`. -/
def carryFrom (a b : Word) (c : Bool) : Bool := decide (2 ^ 32 ≤ a.toNat + b.toNat + bit c)

/-- `OverflowFrom(a + b + c)`. -/
def overflowAdd (a b : Word) (c : Bool) : Bool := outside32 (a.toInt + b.toInt + bit c)

/-- `BorrowFrom(a - b - c)`. -/
def borrowFrom (a b : Word) (c : Bool) : Bool := decide (a.toNat < b.toNat + bit c)

/-- `OverflowFrom(a - b - c)`. -/
def overflowSub (a b : Word) (c : Bool) : Bool := outside32 (a.toInt - b.toInt - bit c)

/-- `SignedSat32` (R10). -/
def signedSat32 (i : Int) : Word :=
  if i < -2 ^ 31 then 0x80000000 else if 2 ^ 31 - 1 < i then 0x7FFFFFFF else BitVec.ofInt 32 i

/-! ## The data-processing operations -/

/-- What an operation computes: the result, and C and V as they are if the instruction sets flags (N and Z are those of
the result, R322). -/
structure Alu where
  result : Word
  carry : Bool
  overflow : Bool
deriving DecidableEq, Repr

/-- `a + b + c` with its carry and overflow (R334, R335). -/
def aluSum (a b : Word) (c : Bool) : Alu :=
  { result := a + b + BitVec.ofNat 32 (bit c), carry := carryFrom a b c, overflow := overflowAdd a b c }

/-- `a - b - borrow` with NOT borrow as the carry, and overflow (R332, R336, R360). -/
def aluDiff (a b : Word) (borrow : Bool) : Alu :=
  { result := a - b - BitVec.ofNat 32 (bit borrow), carry := !borrowFrom a b borrow,
    overflow := overflowSub a b borrow }

/-- A logical result: C is the shifter's carry-out and V stays (R322). -/
def aluLogical (r : Word) (b : Operand2) (p : Word) : Alu :=
  { result := r, carry := b.carry, overflow := Psr.v p }

/-- AND (R330), TST (R338). `p` is the status register before the instruction, here and below. -/
def aluAnd (a : Word) (b : Operand2) (p : Word) : Alu := aluLogical (a &&& b.value) b p

/-- EOR (R331), TEQ (R339). -/
def aluEor (a : Word) (b : Operand2) (p : Word) : Alu := aluLogical (a ^^^ b.value) b p

/-- ORR (R342). -/
def aluOrr (a : Word) (b : Operand2) (p : Word) : Alu := aluLogical (a ||| b.value) b p

/-- MOV (R343). -/
def aluMov (b : Operand2) (p : Word) : Alu := aluLogical b.value b p

/-- BIC (R344). -/
def aluBic (a : Word) (b : Operand2) (p : Word) : Alu := aluLogical (a &&& ~~~b.value) b p

/-- MVN (R345). -/
def aluMvn (b : Operand2) (p : Word) : Alu := aluLogical (~~~b.value) b p

/-- SUB (R332), CMP (R340). -/
def aluSub (a b : Word) : Alu := aluDiff a b false

/-- RSB (R333). -/
def aluRsb (a b : Word) : Alu := aluDiff b a false

/-- ADD (R334), CMN (R341). -/
def aluAdd (a b : Word) : Alu := aluSum a b false

/-- ADC (R335). -/
def aluAdc (a b p : Word) : Alu := aluSum a b (Psr.c p)

/-- SBC (R336). -/
def aluSbc (a b p : Word) : Alu := aluDiff a b (!Psr.c p)

/-- RSC (R337). -/
def aluRsc (a b p : Word) : Alu := aluDiff b a (!Psr.c p)

/-- The status register after an instruction that sets N, Z, C, V from a result (R322). -/
def Alu.flags (o : Alu) (p : Word) : Word :=
  Psr.withNZCV p (o.result.getLsbD 31) (o.result == 0) o.carry o.overflow

/-- The status register after an instruction that sets N and Z alone, from a result of any width (R247). -/
def nzFlags {w : Nat} (r : BitVec w) (p : Word) : Word :=
  Psr.withNZCV p (r.getLsbD (w - 1)) (r == 0) (Psr.c p) (Psr.v p)

end Sys2Proof.Machine
end

