-- ==== Sys2Proof/Config.lean ====
section
/-! DEFINITION. What an implementation fixes (the parameters of R6, as plain data) and the free values: constants
without a body, about which nothing can be proved. -/

namespace Sys2Proof

/-- The value STR and STM store for x[15], less the instruction's address: 8 or 12 (R6 `STORE_PC_OFFSET`, R377). -/
inductive StorePcOffset where
  | eight
  | twelve
deriving DecidableEq, Repr

/-- What the base register holds after a Data Abort (R6 `ABORT_MODEL`, R556 (e)). -/
inductive AbortModel where
  | baseRestored
  | baseUpdated
deriving DecidableEq, Repr

/-- The kind of an access that the `MemAbort` oracle is asked about (R6, R554, R556). -/
inductive AccessKind where
  | fetch
  | read
  | write
deriving DecidableEq, Repr

/-- One line of the `MemAbort` oracle: accesses of this kind and privilege, of this size in bytes (`none`: any
size), at an address from `first` to `last`, abort. A list of such lines can say any oracle of (address, size, kind,
privileged), since there are finitely many of those (R6 `MemAbort`, D8; log entry 4). -/
structure AbortRule where
  first : Nat
  last : Nat
  size : Option Nat
  kind : AccessKind
  privileged : Bool
deriving DecidableEq, Repr

/-- Does this line of the oracle abort the access? -/
def AbortRule.applies (r : AbortRule) (kind : AccessKind) (privileged : Bool) (size : Nat) (a : Word) : Bool :=
  r.kind == kind && r.privileged == privileged && (r.size == none || r.size == some size) &&
    decide (r.first ≤ a.toNat) && decide (a.toNat ≤ r.last)

/-- The implementation parameters of R6 that the step takes as arguments (log entry 3). -/
structure Settings where
  /-- `BIGEND`: byte order of data accesses and fetches (R62 to R65, D1). -/
  bigend : Bool
  /-- `HIVECS`: exception vectors at 0xFFFF0000 (R541, D4). -/
  hivecs : Bool
  /-- `ALIGN_FAULT`: a misaligned data access raises Data Abort (R70, D2). -/
  alignFault : Bool
  /-- `STORE_PC_OFFSET` (R377, D5). -/
  storePc : StorePcOffset
  /-- `ABORT_MODEL` (R556, D6). -/
  abortModel : AbortModel
  /-- `MemAbort` (R81, D8). -/
  memAbort : List AbortRule
deriving DecidableEq, Repr

/-- The defaults of R6. -/
def Settings.default : Settings :=
  { bigend := false, hivecs := false, alignFault := false, storePc := .twelve, abortModel := .baseRestored,
    memAbort := [] }

/-- The `MemAbort` oracle: is this access refused by the memory system (R81)? -/
def Settings.aborts (c : Settings) (kind : AccessKind) (privileged : Bool) (size : Nat) (a : Word) : Bool :=
  c.memAbort.any fun r => r.applies kind privileged size a

/-- `STORE_PC_OFFSET` as a number. -/
def StorePcOffset.value : StorePcOffset → Word
  | .eight => 8
  | .twelve => 12

/-- What the processor offers a coprocessor: the operation of R440 with the fields its handler is given. `two` marks
the unconditional "2" forms; `option` is the eight-bit option of the unindexed form of LDC and STC (R155). -/
inductive CpOp where
  | cdp (opcode1 : BitVec 4) (opcode2 : BitVec 3) (crd crn crm : CpNum) (two : Bool)
  | mcr (opcode1 opcode2 : BitVec 3) (crn crm : CpNum) (two privileged : Bool)
  | mrc (opcode1 opcode2 : BitVec 3) (crn crm : CpNum) (two privileged : Bool)
  | ldc (crd : CpNum) (n two : Bool) (option : Option (BitVec 8))
  | stc (crd : CpNum) (n two : Bool) (option : Option (BitVec 8))
  | mcrr (opcode : BitVec 4) (crm : CpNum)
  | mrrc (opcode : BitVec 4) (crm : CpNum)
deriving DecidableEq, Repr

/-- How a coprocessor answers an operation it is offered (R440; log entry 6). -/
inductive CpAnswer where
  /-- It accepts; for LDC and STC it asks for `lessOne + 1` words, 1 to 16. -/
  | takes (lessOne : BitVec 4)
  /-- It decides by the words it is given and by its own state: `Config.cpReply`. -/
  | decides
deriving DecidableEq, Repr

/-- One line of the `Coproc` parameter: coprocessor `cp` is present and answers `op` so; what no line names is rejected
(R440, D7; log entry 6). -/
structure CpRule where
  cp : CpNum
  op : CpOp
  answer : CpAnswer
deriving DecidableEq, Repr

/-- What happened to the attached coprocessors. The list of these is their state (R20 (f), R39): whatever a coprocessor
keeps is a function of it. -/
inductive CpEvent where
  /-- Coprocessor `cp` accepted an operation with the words it was given. -/
  | took (cp : CpNum) (op : CpOp) (words : List Word)
  /-- The Reset exception: what it does to a coprocessor's state is the coprocessor's (R46; log entry 6). -/
  | reset
deriving DecidableEq, Repr

/-- Does coprocessor `cp` see the event? -/
def CpEvent.concerns (cp : CpNum) : CpEvent → Bool
  | .took c _ _ => c == cp
  | .reset => true

/-- FREE VALUE: the k-th word that the architecture leaves UNPREDICTABLE (log entry 7). -/
opaque Config.freeWord : Nat → Word

/-- FREE VALUE: the j-th word that coprocessor `cp` gives for `op` after the events `past` (newest first) that it has
seen; the coprocessor defines it, not the architecture (R440; log entry 6). -/
opaque Config.cpWord : CpNum → CpOp → List CpEvent → Nat → Word

/-- FREE VALUE: whether coprocessor `cp` accepts `op` with these words after the events `past` (newest first), and then
how many words less one it asks for; the coprocessor defines it (R440; log entry 6). -/
opaque Config.cpReply : CpNum → CpOp → List Word → List CpEvent → Option (BitVec 4)

end Sys2Proof
end

