-- ==== Sys2Proof/Machine/State.lean ====
section
/-! DEFINITION. The state of the machine as plain data, the reasons a step can stop, and the state after reset
(R20 to R46). -/

namespace Sys2Proof.Machine

/-- The seven processor modes (R35). -/
inductive Mode where
  | usr
  | fiq
  | irq
  | svc
  | abt
  | und
  | sys
deriving DecidableEq, Repr

/-- The thirty physical general registers other than the pc (R22). -/
inductive PhysReg where
  | r0 | r1 | r2 | r3 | r4 | r5 | r6 | r7 | r8 | r9 | r10 | r11 | r12 | r13 | r14
  | r8_fiq | r9_fiq | r10_fiq | r11_fiq | r12_fiq | r13_fiq | r14_fiq
  | r13_svc | r14_svc
  | r13_abt | r14_abt
  | r13_und | r14_und
  | r13_irq | r14_irq
deriving DecidableEq, Repr

/-- Where a physical register stands in the register file. -/
def PhysReg.index : PhysReg → Fin 30
  | .r0 => 0 | .r1 => 1 | .r2 => 2 | .r3 => 3 | .r4 => 4 | .r5 => 5 | .r6 => 6 | .r7 => 7
  | .r8 => 8 | .r9 => 9 | .r10 => 10 | .r11 => 11 | .r12 => 12 | .r13 => 13 | .r14 => 14
  | .r8_fiq => 15 | .r9_fiq => 16 | .r10_fiq => 17 | .r11_fiq => 18 | .r12_fiq => 19
  | .r13_fiq => 20 | .r14_fiq => 21
  | .r13_svc => 22 | .r14_svc => 23
  | .r13_abt => 24 | .r14_abt => 25
  | .r13_und => 26 | .r14_und => 27
  | .r13_irq => 28 | .r14_irq => 29

/-- Memory: the bytes that have a value, as (address, byte) pairs with strictly rising addresses (R20 (e), R60). An
address not listed has no value (D11; log entry 2). -/
abbrev Memory := List Host.Cell

/-- What an address that memory does not list reads as: no value (D11; log entry 2). -/
def Memory.unlisted : Option Byte := none

/-- The levels of the reset, IRQ and FIQ inputs at one instruction boundary (R20 (g), R40, R546, R600). -/
structure Lines where
  reset : Bool
  irq : Bool
  fiq : Bool
deriving DecidableEq, Repr

/-- The inputs with nothing asserted. -/
def Lines.quiet : Lines := { reset := false, irq := false, fiq := false }

/-- The machine. -/
structure State where
  /-- The thirty general registers other than the pc, indexed by `PhysReg.index` (R20 (a), R22). -/
  regs : Vector Word 30
  /-- The address of the instruction being executed (R26). -/
  pc : Word
  /-- The current program status register (R30). -/
  cpsr : Word
  /-- The saved program status registers of the five exception modes (R36). -/
  spsrFiq : Word
  spsrIrq : Word
  spsrSvc : Word
  spsrAbt : Word
  spsrUnd : Word
  /-- The 2^32 bytes of memory (R60). -/
  mem : Memory
  /-- The addresses stored to since launch, strictly rising (R90, D13): the model's record, log entry 5. -/
  stored : List Nat
  /-- The operations the attached coprocessors have accepted and the resets, newest first (R20 (f), R39, R46). -/
  cpPast : List CpEvent
  /-- How coprocessor operations are answered: the parameter `Coproc` (R440, D7). -/
  coprocs : List CpRule
  /-- The other parameters of R6. -/
  settings : Settings
  /-- The levels of the interrupt and reset inputs at this instruction boundary (R20 (g), R40). -/
  lines : Lines
  /-- The levels the environment gives at the following boundaries; after the last, they stay (D9; log entry 8). -/
  schedule : List Lines
  /-- How many free values have been used: the model's own field (log entry 7). -/
  freeCount : Nat
deriving DecidableEq, Repr

/-- Why the machine stops with a fault. -/
inductive Fault where
  /-- Raised by an instruction fetch or a load that reads a byte which nothing has written and no launch contents
  give (R46, D11). Safe: the hardware goes on with some byte, the model with none. -/
  | unwrittenMemory
deriving DecidableEq, Repr

/-- Why the model gives a step no meaning. All are UNPREDICTABLE in the spec (U1, decision D3: refuse), but for
`notModelled`. -/
inductive Refusal where
  /-- An instruction without a meaning yet. Safe. -/
  | notModelled (mnemonic : String)
  /-- Raised by any instruction whose word is UNPREDICTABLE by its bits alone (R171, D15): a should-be bit that is wrong
  (R105), a register number or a P and W combination its rule forbids. Safe. -/
  | unpredictableEncoding
  /-- Raised by a write of the pc whose low bits the rule forbids (R28, U16). Safe. -/
  | unpredictableTarget
  /-- Raised by a halfword, doubleword or pc-loading access at an address its rule forbids (R68, U8). Safe. -/
  | unpredictableAlignment
  /-- Raised where the SPSR is needed in User or System mode (R36, U15), or a User-bank transfer is tried there. Safe. -/
  | noSpsr
  /-- Raised when the CPSR would receive a mode field that is no mode (R35, U10). Safe. -/
  | illegalMode
  /-- Raised by an MSR whose operand has a reserved bit set (R37, R273, U13). Safe. -/
  | reservedPsrBits
  /-- Raised by a privileged MSR to the CPSR whose operand has the T bit set (R273 (d), U17). Safe. -/
  | msrSetsT
  /-- Raised where the next address, a branch target or a sequence of accesses passes an end of memory (R29, R82,
  U9). Safe. -/
  | addressWrap
  /-- Raised by a fetch of a byte that the run has stored to since launch (R90, D13, U22). Safe. -/
  | selfModifiedCode
  /-- Raised by a fetch at an address not aligned to the instruction set's width: no run reaches it (R68). Safe. -/
  | misalignedPc
deriving DecidableEq, Repr

/-- The machine right after reset (R46, R600): Supervisor mode, I and F set, ARM state, pc at the reset vector. Every
register the spec leaves unspecified is zero: DESIGN CHOICE, log entry 1. The levels of the inputs, which R6 and D9 leave to
the environment, are not asserted here or at any boundary to come: DESIGN CHOICE, log entry 8. -/
def State.reset : State :=
  { regs := Vector.replicate 30 0
    pc := 0x00000000
    cpsr := 0x000000D3
    spsrFiq := 0
    spsrIrq := 0
    spsrSvc := 0
    spsrAbt := 0
    spsrUnd := 0
    mem := []
    stored := []
    cpPast := []
    coprocs := []
    settings := Settings.default
    lines := Lines.quiet
    schedule := []
    freeCount := 0 }

/-- What a step, or the meaning of an instruction, answers. -/
abbrev Result := Host.Outcome State Fault Refusal

end Sys2Proof.Machine
end

