-- ==== Sys2Proof/WellFormed.lean ====
section
/-! DEFINITION. Which instructions are well formed: the should-be bits have their values and no field has a value that
the instruction's rule calls UNPREDICTABLE by its bits alone (R9, R105, R171), and an Undefined row's free bits are
none that an earlier row of the table takes. Register 15 in a shift by a register is ill formed whatever the condition (R185),
although R171 names a shift of the pc among the dynamic cases: log entry 10. A result that cannot be an address is no matter of
well-formedness even where the word alone gives it: part 15 of spec/95_test_vectors.md has MOV PC, #2 dynamic. -/

namespace Sys2Proof

open Sys2Proof.Machine (rotatedImmediate highReg)

/-- The register number is not 15. -/
def notPc (r : Reg) : Bool := r != 15

/-- Is register `r` in the list (R157)? -/
def inList (list : BitVec 16) (r : Reg) : Bool := list.getLsbD r.toNat

/-- Does the form write its base register: pre-indexed or post-indexed (R291, R371)? -/
def writesBase (p w : Bool) : Bool := !p || w

/-- Base register restrictions of R291 and R371: a base that is written is neither the pc nor the register
transferred. -/
def baseOk (p w : Bool) (rn rd : Reg) : Bool := !writesBase p w || (notPc rn && rn != rd)

/-- Offset register restrictions of R290 and R371: not the pc, and not a base that is written. -/
def offsetOk (p w : Bool) (rn rm : Reg) : Bool := notPc rm && (!writesBase p w || rm != rn)

/-- LDR, LDRB, STR, STRB with an immediate offset; P = 0 with W = 1 is a T form, another row (R370, R371). -/
def wordImmOk (p w : Bool) (rn rd : Reg) : Bool := (p || !w) && baseOk p w rn rd

/-- LDR, LDRB, STR, STRB with a register offset (R370, R371). -/
def wordRegOk (p w : Bool) (rn rd rm : Reg) : Bool := wordImmOk p w rn rd && offsetOk p w rn rm

/-- LDRT, LDRBT, STRT, STRBT with an immediate offset: the base is always written (R371). -/
def transImmOk (rn rd : Reg) : Bool := baseOk false true rn rd

/-- LDRT, LDRBT, STRT, STRBT with a register offset (R371). -/
def transRegOk (rn rd rm : Reg) : Bool := transImmOk rn rd && offsetOk false true rn rm

/-- Halfword and signed transfers with an immediate offset: P = 0 with W = 1 and the pc as Rd are UNPREDICTABLE (R291
to R295). -/
def halfImmOk (p w : Bool) (rn rd : Reg) : Bool := (p || !w) && notPc rd && baseOk p w rn rd

/-- Halfword and signed transfers with a register offset (R105, R290). -/
def halfRegOk (p w : Bool) (rn rd : Reg) (sbz : BitVec 4) (rm : Reg) : Bool :=
  sbz == 0 && halfImmOk p w rn rd && offsetOk p w rn rm

/-- LDRD and STRD with an immediate offset: Rd is even and not 14, and a written base is neither of the pair (R291,
R296, R297). -/
def doubleImmOk (p w : Bool) (rn rd : Reg) : Bool :=
  (p || !w) && !rd.getLsbD 0 && rd != 14 && baseOk p w rn rd && baseOk p w rn (rd + 1)

/-- LDRD and STRD with a register offset (R123, R290). -/
def doubleRegOk (p w : Bool) (rn rd : Reg) (sbz : BitVec 4) (rm : Reg) : Bool :=
  sbz == 0 && doubleImmOk p w rn rd && offsetOk p w rn rm

/-- The long multiplies of row 8 (R246). -/
def longMulOk (rdHi rdLo rs rm : Reg) : Bool :=
  notPc rdHi && notPc rdLo && notPc rs && notPc rm && rdHi != rdLo && rdHi != rm && rdLo != rm

/-- LDC, STC and their "2" forms: P = U = W = 0 is another row, and a base that is written is not the pc (R444). -/
def cpTransferOk (p u w : Bool) (rn : Reg) : Bool := (p || u || w) && (!w || notPc rn)

/-- MSR, immediate form: the operand has no reserved bit set (R273, `UnallocMask`). -/
def msrImmOk (rotate : BitVec 4) (imm8 : BitVec 8) : Bool := rotatedImmediate rotate imm8 &&& 0x07FFFF00 == 0

/-- The low 28 bits of a word with bits [31:28] = 1111 that is none of the instructions and rows of R432. -/
def isUndefUncond (low : BitVec 28) : Bool :=
  !low.getLsbD 27 &&
    !(low.getLsbD 26 && low.getLsbD 24 && low.extractLsb' 20 3 == 0b101 && low.extractLsb' 12 4 == 0b1111 &&
      (!low.getLsbD 25 || !low.getLsbD 4))

/-- Bits [24:20] of a word of R103: neither a multiply (000xx, 01xxx) nor a swap (10x00). -/
def isUndefArith (op : BitVec 5) : Bool :=
  op.extractLsb' 2 3 != 0b000 && op.extractLsb' 3 2 != 0b01 && op != 0b10000 && op != 0b10100

/-- Bits [22:21] and [19:0] of a compare code point with S = 0 that no earlier row takes (R346, R433 (b)). -/
def isUndefCompare (op : BitVec 2) (low : BitVec 20) : Bool :=
  op == 0b11 && (low.extractLsb' 4 4 == 0b0011 || low.extractLsb' 4 4 == 0b0111)

/-- h[11:8] of an Undefined Thumb halfword 1011 xxxx (R528). -/
def isUndefMisc (op : BitVec 4) : Bool :=
  op != 0b0000 && op != 0b0100 && op != 0b0101 && op != 0b1100 && op != 0b1101 && op != 0b1110

/-- Is the instruction well formed? -/
def Instr.wf : Instr → Bool
  | .pldImm _ _ _ => true
  | .pldReg _ _ _ _ rm => notPc rm
  | .blxImm _ _ => true
  | .undefCoprocExtUncond _ _ => true
  | .ldc2 p u _ w rn _ _ _ => cpTransferOk p u w rn
  | .stc2 p u _ w rn _ _ _ => cpTransferOk p u w rn
  | .cdp2 _ _ _ _ _ _ => true
  | .mcr2 _ _ rd _ _ _ => notPc rd
  | .mrc2 _ _ _ _ _ _ => true
  | .undefSwiUncond _ => true
  | .undefBlockUncond _ => true
  | .undefUncond low => isUndefUncond low
  | .clz _ sbo1 rd sbo2 rm => sbo1 == 15 && sbo2 == 15 && notPc rd && notPc rm
  | .bkpt c _ _ => c == .al
  | .bx _ sbo _ => sbo == 0xFFF
  | .blxReg _ sbo rm => sbo == 0xFFF && notPc rm
  | .swp _ rn rd sbz rm => sbz == 0 && notPc rn && notPc rd && notPc rm && rn != rm && rn != rd
  | .swpb _ rn rd sbz rm => sbz == 0 && notPc rn && notPc rd && notPc rm && rn != rm && rn != rd
  | .qadd _ rn rd sbz rm => sbz == 0 && notPc rn && notPc rd && notPc rm
  | .qsub _ rn rd sbz rm => sbz == 0 && notPc rn && notPc rd && notPc rm
  | .qdadd _ rn rd sbz rm => sbz == 0 && notPc rn && notPc rd && notPc rm
  | .qdsub _ rn rd sbz rm => sbz == 0 && notPc rn && notPc rd && notPc rm
  | .mul _ _ rd sbz rs rm => sbz == 0 && notPc rd && notPc rs && notPc rm && rd != rm
  | .mla _ _ rd rn rs rm => notPc rd && notPc rn && notPc rs && notPc rm && rd != rm
  | .umull _ _ rdHi rdLo rs rm => longMulOk rdHi rdLo rs rm
  | .umlal _ _ rdHi rdLo rs rm => longMulOk rdHi rdLo rs rm
  | .smull _ _ rdHi rdLo rs rm => longMulOk rdHi rdLo rs rm
  | .smlal _ _ rdHi rdLo rs rm => longMulOk rdHi rdLo rs rm
  | .undefArith _ op _ _ => isUndefArith op
  | .smlaxy _ rd rn rs _ _ rm => notPc rd && notPc rn && notPc rs && notPc rm
  | .smlawy _ rd rn rs _ rm => notPc rd && notPc rn && notPc rs && notPc rm
  | .smulwy _ rd sbz rs _ rm => sbz == 0 && notPc rd && notPc rs && notPc rm
  | .smlalxy _ rdHi rdLo rs _ _ rm => notPc rdHi && notPc rdLo && notPc rs && notPc rm && rdHi != rdLo
  | .smulxy _ rd sbz rs _ _ rm => sbz == 0 && notPc rd && notPc rs && notPc rm
  | .msrReg _ _ _ sbo sbzHi sbzLo rm => sbo == 15 && sbzHi == 0 && sbzLo == 0 && notPc rm
  | .strhReg _ p _ w rn rd sbz rm => halfRegOk p w rn rd sbz rm
  | .ldrhReg _ p _ w rn rd sbz rm => halfRegOk p w rn rd sbz rm
  | .ldrsbReg _ p _ w rn rd sbz rm => halfRegOk p w rn rd sbz rm
  | .ldrshReg _ p _ w rn rd sbz rm => halfRegOk p w rn rd sbz rm
  | .strhImm _ p _ w rn rd _ _ => halfImmOk p w rn rd
  | .ldrhImm _ p _ w rn rd _ _ => halfImmOk p w rn rd
  | .ldrdReg _ p _ w rn rd sbz rm => doubleRegOk p w rn rd sbz rm && rm != rd && rm != rd + 1
  | .strdReg _ p _ w rn rd sbz rm => doubleRegOk p w rn rd sbz rm
  | .ldrdImm _ p _ w rn rd _ _ => doubleImmOk p w rn rd
  | .strdImm _ p _ w rn rd _ _ => doubleImmOk p w rn rd
  | .ldrsbImm _ p _ w rn rd _ _ => halfImmOk p w rn rd
  | .ldrshImm _ p _ w rn rd _ _ => halfImmOk p w rn rd
  | .mrs _ _ sbo rd sbz => sbo == 15 && sbz == 0 && notPc rd
  | .msrImm _ _ _ sbo rotate imm8 => sbo == 15 && msrImmOk rotate imm8
  | .undefImmCompare _ _ _ => true
  | .undefCompare _ op low => isUndefCompare op low
  | .cdp _ _ _ _ _ _ _ => true
  | .mcr _ _ _ rd _ _ _ => notPc rd
  | .mrc _ _ _ _ _ _ _ => true
  | .andRegShift _ _ rn rd rs _ rm => notPc rn && notPc rd && notPc rs && notPc rm
  | .eorRegShift _ _ rn rd rs _ rm => notPc rn && notPc rd && notPc rs && notPc rm
  | .subRegShift _ _ rn rd rs _ rm => notPc rn && notPc rd && notPc rs && notPc rm
  | .rsbRegShift _ _ rn rd rs _ rm => notPc rn && notPc rd && notPc rs && notPc rm
  | .addRegShift _ _ rn rd rs _ rm => notPc rn && notPc rd && notPc rs && notPc rm
  | .adcRegShift _ _ rn rd rs _ rm => notPc rn && notPc rd && notPc rs && notPc rm
  | .sbcRegShift _ _ rn rd rs _ rm => notPc rn && notPc rd && notPc rs && notPc rm
  | .rscRegShift _ _ rn rd rs _ rm => notPc rn && notPc rd && notPc rs && notPc rm
  | .tstRegShift _ rn sbz rs _ rm => sbz == 0 && notPc rn && notPc rs && notPc rm
  | .teqRegShift _ rn sbz rs _ rm => sbz == 0 && notPc rn && notPc rs && notPc rm
  | .cmpRegShift _ rn sbz rs _ rm => sbz == 0 && notPc rn && notPc rs && notPc rm
  | .cmnRegShift _ rn sbz rs _ rm => sbz == 0 && notPc rn && notPc rs && notPc rm
  | .orrRegShift _ _ rn rd rs _ rm => notPc rn && notPc rd && notPc rs && notPc rm
  | .movRegShift _ _ sbz rd rs _ rm => sbz == 0 && notPc rd && notPc rs && notPc rm
  | .bicRegShift _ _ rn rd rs _ rm => notPc rn && notPc rd && notPc rs && notPc rm
  | .mvnRegShift _ _ sbz rd rs _ rm => sbz == 0 && notPc rd && notPc rs && notPc rm
  | .andImmShift _ _ _ _ _ _ _ => true
  | .eorImmShift _ _ _ _ _ _ _ => true
  | .subImmShift _ _ _ _ _ _ _ => true
  | .rsbImmShift _ _ _ _ _ _ _ => true
  | .addImmShift _ _ _ _ _ _ _ => true
  | .adcImmShift _ _ _ _ _ _ _ => true
  | .sbcImmShift _ _ _ _ _ _ _ => true
  | .rscImmShift _ _ _ _ _ _ _ => true
  | .tstImmShift _ _ sbz _ _ _ => sbz == 0
  | .teqImmShift _ _ sbz _ _ _ => sbz == 0
  | .cmpImmShift _ _ sbz _ _ _ => sbz == 0
  | .cmnImmShift _ _ sbz _ _ _ => sbz == 0
  | .orrImmShift _ _ _ _ _ _ _ => true
  | .movImmShift _ _ sbz _ _ _ _ => sbz == 0
  | .bicImmShift _ _ _ _ _ _ _ => true
  | .mvnImmShift _ _ sbz _ _ _ _ => sbz == 0
  | .strtReg _ _ rn rd _ _ rm => transRegOk rn rd rm
  | .ldrtReg _ _ rn rd _ _ rm => transRegOk rn rd rm && notPc rd
  | .strbtReg _ _ rn rd _ _ rm => transRegOk rn rd rm && notPc rd
  | .ldrbtReg _ _ rn rd _ _ rm => transRegOk rn rd rm && notPc rd
  | .strReg _ p _ w rn rd _ _ rm => wordRegOk p w rn rd rm
  | .ldrReg _ p _ w rn rd _ _ rm => wordRegOk p w rn rd rm
  | .strbReg _ p _ w rn rd _ _ rm => wordRegOk p w rn rd rm && notPc rd
  | .ldrbReg _ p _ w rn rd _ _ rm => wordRegOk p w rn rd rm && notPc rd
  | .undefMedia _ _ _ => true
  | .swi _ _ => true
  | .andImm _ _ _ _ _ _ => true
  | .eorImm _ _ _ _ _ _ => true
  | .subImm _ _ _ _ _ _ => true
  | .rsbImm _ _ _ _ _ _ => true
  | .addImm _ _ _ _ _ _ => true
  | .adcImm _ _ _ _ _ _ => true
  | .sbcImm _ _ _ _ _ _ => true
  | .rscImm _ _ _ _ _ _ => true
  | .tstImm _ _ sbz _ _ => sbz == 0
  | .teqImm _ _ sbz _ _ => sbz == 0
  | .cmpImm _ _ sbz _ _ => sbz == 0
  | .cmnImm _ _ sbz _ _ => sbz == 0
  | .orrImm _ _ _ _ _ _ => true
  | .movImm _ _ sbz _ _ _ => sbz == 0
  | .bicImm _ _ _ _ _ _ => true
  | .mvnImm _ _ sbz _ _ _ => sbz == 0
  | .strtImm _ _ rn rd _ => transImmOk rn rd
  | .ldrtImm _ _ rn rd _ => transImmOk rn rd && notPc rd
  | .strbtImm _ _ rn rd _ => transImmOk rn rd && notPc rd
  | .ldrbtImm _ _ rn rd _ => transImmOk rn rd && notPc rd
  | .strImm _ p _ w rn rd _ => wordImmOk p w rn rd
  | .ldrImm _ p _ w rn rd _ => wordImmOk p w rn rd
  | .strbImm _ p _ w rn rd _ => wordImmOk p w rn rd && notPc rd
  | .ldrbImm _ p _ w rn rd _ => wordImmOk p w rn rd && notPc rd
  | .ldm1 _ _ _ w rn list => list != 0 && notPc rn && !(w && inList list rn)
  | .ldm2 _ _ _ w rn list => list != 0 && notPc rn && !w
  | .ldm3 _ _ _ w rn list => notPc rn && !(w && inList (0#1 ++ list) rn)
  | .stm1 _ _ _ _ rn list => list != 0 && notPc rn
  | .stm2 _ _ _ w rn list => list != 0 && notPc rn && !w
  | .b _ _ => true
  | .bl _ _ => true
  | .undefCoprocExt _ _ => true
  | .mcrr _ rn rd _ _ _ => notPc rd && notPc rn
  | .mrrc _ rn rd _ _ _ => notPc rd && notPc rn && rd != rn
  | .ldc _ p u _ w rn _ _ _ => cpTransferOk p u w rn
  | .stc _ p u _ w rn _ _ _ => cpTransferOk p u w rn
  | .tAdd3 _ _ _ => true
  | .tSub3 _ _ _ => true
  | .tAdd1 _ _ _ => true
  | .tSub1 _ _ _ => true
  | .tLsl1 _ _ _ => true
  | .tLsr1 _ _ _ => true
  | .tAsr1 _ _ _ => true
  | .tMov1 _ _ => true
  | .tCmp1 _ _ => true
  | .tAdd2 _ _ => true
  | .tSub2 _ _ => true
  | .tAnd _ _ => true
  | .tEor _ _ => true
  | .tLsl2 _ _ => true
  | .tLsr2 _ _ => true
  | .tAsr2 _ _ => true
  | .tAdc _ _ => true
  | .tSbc _ _ => true
  | .tRor _ _ => true
  | .tTst _ _ => true
  | .tNeg _ _ => true
  | .tCmp2 _ _ => true
  | .tCmn _ _ => true
  | .tOrr _ _ => true
  | .tMul _ _ => true
  | .tBic _ _ => true
  | .tMvn _ _ => true
  | .tAdd4 h1 h2 _ _ => (h1 || h2)
  | .tCmp3 h1 h2 _ rd => (h1 || h2) && notPc (highReg h1 rd)
  | .tMov3 h1 h2 _ _ => (h1 || h2)
  | .tBx _ _ sbz => sbz == 0
  | .tBlx2 h2 rm sbz => sbz == 0 && notPc (highReg h2 rm)
  | .tLdr3 _ _ => true
  | .tStr2 _ _ _ => true
  | .tStrh2 _ _ _ => true
  | .tStrb2 _ _ _ => true
  | .tLdrsb _ _ _ => true
  | .tLdr2 _ _ _ => true
  | .tLdrh2 _ _ _ => true
  | .tLdrb2 _ _ _ => true
  | .tLdrsh _ _ _ => true
  | .tStr1 _ _ _ => true
  | .tLdr1 _ _ _ => true
  | .tStrb1 _ _ _ => true
  | .tLdrb1 _ _ _ => true
  | .tStrh1 _ _ _ => true
  | .tLdrh1 _ _ _ => true
  | .tStr3 _ _ => true
  | .tLdr4 _ _ => true
  | .tAdd5 _ _ => true
  | .tAdd6 _ _ => true
  | .tAdd7 _ => true
  | .tSub4 _ => true
  | .tPush r list => (r || list != 0)
  | .tPop r list => (r || list != 0)
  | .tBkpt _ => true
  | .tUndefMisc op _ => isUndefMisc op
  | .tStmia _ list => list != 0
  | .tLdmia _ list => list != 0
  | .tUndefCond _ => true
  | .tSwi _ => true
  | .tB1 c _ => c != .al
  | .tB2 _ => true
  | .tUndefBlx _ => true
  | .tBlx1Suffix _ => true
  | .tBlPrefix _ => true
  | .tBlSuffix _ => true

end Sys2Proof
end

