-- ==== Sys2Proof/Machine/Ops.lean ====
section
/-! DEFINITION. The named operations over registers, memory, the pc and the status registers; taking an exception
(R550) and returning from one (R323, R565). -/

namespace Sys2Proof.Machine

/-! ## Modes and registers -/

/-- The mode a mode field names, if it is one of the seven (R35). -/
def Mode.ofBits? (m : BitVec 5) : Option Mode :=
  match m.toNat with
  | 0b10000 => some .usr
  | 0b10001 => some .fiq
  | 0b10010 => some .irq
  | 0b10011 => some .svc
  | 0b10111 => some .abt
  | 0b11011 => some .und
  | 0b11111 => some .sys
  | _ => none

/-- The code of a mode (R35). -/
def Mode.bits : Mode → BitVec 5
  | .usr => 0b10000
  | .fiq => 0b10001
  | .irq => 0b10010
  | .svc => 0b10011
  | .abt => 0b10111
  | .und => 0b11011
  | .sys => 0b11111

/-- The current mode. -/
def State.mode (s : State) : Option Mode := Mode.ofBits? (Psr.m s.cpsr)

/-- `InAPrivilegedMode()` (R10). -/
def State.privileged (s : State) : Bool := Psr.m s.cpsr != 0b10000

/-- The physical register that number `i` names in a mode, none for the pc (R22). With a mode field that is no mode,
which no run reaches, the User bank is named (log entry 20). -/
def physReg (m : Option Mode) (i : Reg) : Option PhysReg :=
  match i.toNat with
  | 0 => some .r0
  | 1 => some .r1
  | 2 => some .r2
  | 3 => some .r3
  | 4 => some .r4
  | 5 => some .r5
  | 6 => some .r6
  | 7 => some .r7
  | 8 => some (if m = some .fiq then .r8_fiq else .r8)
  | 9 => some (if m = some .fiq then .r9_fiq else .r9)
  | 10 => some (if m = some .fiq then .r10_fiq else .r10)
  | 11 => some (if m = some .fiq then .r11_fiq else .r11)
  | 12 => some (if m = some .fiq then .r12_fiq else .r12)
  | 13 =>
    match m with
    | some .fiq => some .r13_fiq
    | some .svc => some .r13_svc
    | some .abt => some .r13_abt
    | some .und => some .r13_und
    | some .irq => some .r13_irq
    | _ => some .r13
  | 14 =>
    match m with
    | some .fiq => some .r14_fiq
    | some .svc => some .r14_svc
    | some .abt => some .r14_abt
    | some .und => some .r14_und
    | some .irq => some .r14_irq
    | _ => some .r14
  | _ => none

/-- A physical register's content. -/
def State.reg (s : State) (r : PhysReg) : Word := s.regs[r.index]

/-- Write a physical register. -/
def State.setReg (s : State) (r : PhysReg) (v : Word) : State := { s with regs := s.regs.set r.index v }

/-- The T bit: is the machine in Thumb state (R34)? -/
def State.thumb (s : State) : Bool := Psr.t s.cpsr

/-- What x[15] reads as: two instructions ahead (R27). -/
def State.pcRead (s : State) : Word := s.pc + if s.thumb then 4 else 8

/-- `x[i]`: read register i of the current bank (R10, R22, R27). -/
def State.x (s : State) (i : Reg) : Word :=
  match physReg s.mode i with
  | some r => s.reg r
  | none => s.pcRead

/-- `x[i] <- v` for i in 0 to 14: write register i of the current bank (R10). Number 15 writes nothing here: a write of
the pc is a branch, an operation of its own below. -/
def State.setX (s : State) (i : Reg) (v : Word) : State :=
  match physReg s.mode i with
  | some r => s.setReg r v
  | none => s

/-- `x_usr[i]`: read register i of the User bank (R23). -/
def State.xUsr (s : State) (i : Reg) : Word :=
  match physReg (some .usr) i with
  | some r => s.reg r
  | none => s.pcRead

/-- `x_usr[i] <- v`: write register i of the User bank (R23). -/
def State.setXUsr (s : State) (i : Reg) (v : Word) : State :=
  match physReg (some .usr) i with
  | some r => s.setReg r v
  | none => s

/-- Write several registers of the current bank. -/
def State.setXs (s : State) : List (Reg × Word) → State
  | [] => s
  | (i, v) :: rest => (s.setX i v).setXs rest

/-- Write several registers of the User bank. -/
def State.setXsUsr (s : State) : List (Reg × Word) → State
  | [] => s
  | (i, v) :: rest => (s.setXUsr i v).setXsUsr rest

/-- Write the base register, if the addressing mode writes one. -/
def State.writeBack (s : State) : Option (Reg × Word) → State
  | some (rn, v) => s.setX rn v
  | none => s

/-- The SPSR of the current mode, if the mode has one (R36). -/
def State.spsr? (s : State) : Option Word :=
  match s.mode with
  | some .fiq => some s.spsrFiq
  | some .irq => some s.spsrIrq
  | some .svc => some s.spsrSvc
  | some .abt => some s.spsrAbt
  | some .und => some s.spsrUnd
  | _ => none

/-- Write the SPSR of the current mode; a mode without one keeps everything. -/
def State.setSpsr (s : State) (v : Word) : State :=
  match s.mode with
  | some .fiq => { s with spsrFiq := v }
  | some .irq => { s with spsrIrq := v }
  | some .svc => { s with spsrSvc := v }
  | some .abt => { s with spsrAbt := v }
  | some .und => { s with spsrUnd := v }
  | _ => s

/-- Write the CPSR. -/
def State.setCpsr (s : State) (p : Word) : State := { s with cpsr := p }

/-- Write the pc. -/
def State.setPc (s : State) (a : Word) : State := { s with pc := a }

/-! ## Free values -/

/-- The next free value (log entry 7). -/
def State.free (s : State) : Word := Config.freeWord s.freeCount

/-- The state after `n` free values have been used. -/
def State.useFree (s : State) (n : Nat) : State := { s with freeCount := s.freeCount + n }

/-! ## The pc -/

/-- The width of an instruction of the current instruction set in bytes (R29, R34). -/
def State.width (s : State) : Nat := if s.thumb then 2 else 4

/-- The address after this instruction, modulo 2^32. -/
def State.nextPc (s : State) : Word := s.pc + BitVec.ofNat 32 s.width

/-- Go on to the next instruction. Running past the top of memory is UNPREDICTABLE (R29, U9). -/
def advance (s : State) : Result :=
  if s.pc.toNat + s.width < 2 ^ 32 then .next (s.setPc s.nextPc) else .refused .addressWrap

/-- A plain write of the pc by an ARM data-processing instruction (R28 (a), R322). -/
def branchPlain (s : State) (v : Word) : Result :=
  if lowTwo v = 0 then .next (s.setPc v) else .refused .unpredictableTarget

/-- A write of the pc by a Thumb instruction that keeps T: bit 0 is cleared (R474, R477). -/
def branchThumb (s : State) (v : Word) : Result := .next (s.setPc (alignHalf v))

/-- An interworking write of the pc: bit 0 becomes T (R28 (b)). -/
def branchExchange (s : State) (v : Word) : Result :=
  if lowTwo v = 0b10 then .refused .unpredictableTarget
  else .next ((s.setCpsr (Psr.withT s.cpsr (v.getLsbD 0))).setPc (alignHalf v))

/-- The target of a branch relative to what x[15] reads as, unless the sum passes either end of memory (R29, U9). -/
def State.branchTarget? (s : State) (offset : Int) : Option Word :=
  let t := (s.pc.toNat : Int) + (if s.thumb then 4 else 8) + offset
  if 0 ≤ t ∧ t < 2 ^ 32 then some (BitVec.ofInt 32 t) else none

/-- Branch to a target computed before, if there is one. -/
def branchTo (s : State) : Option Word → Result
  | some t => .next (s.setPc t)
  | none => .refused .addressWrap

/-! ## Exceptions -/

/-- The seven exceptions (R541). -/
inductive Exception where
  | reset
  | undefined
  | softwareInterrupt
  | prefetchAbort
  | dataAbort
  | irq
  | fiq
deriving DecidableEq, Repr

/-- The mode an exception enters (R541). -/
def Exception.mode : Exception → Mode
  | .reset => .svc
  | .undefined => .und
  | .softwareInterrupt => .svc
  | .prefetchAbort => .abt
  | .dataAbort => .abt
  | .irq => .irq
  | .fiq => .fiq

/-- The offset of an exception's vector (R541). -/
def Exception.offset : Exception → Word
  | .reset => 0x00
  | .undefined => 0x04
  | .softwareInterrupt => 0x08
  | .prefetchAbort => 0x0C
  | .dataAbort => 0x10
  | .irq => 0x18
  | .fiq => 0x1C

/-- Does entering the exception mask FIQ (R541, R550)? -/
def Exception.masksFiq : Exception → Bool
  | .reset => true
  | .fiq => true
  | _ => false

/-- `VECBASE` (R541). -/
def State.vectorBase (s : State) : Word := if s.settings.hivecs then 0xFFFF0000 else 0x00000000

/-- The link value of an exception taken at the current pc (R550). Reset's is a free value, below. -/
def Exception.link (e : Exception) (s : State) : Word :=
  match e with
  | .undefined => s.nextPc
  | .softwareInterrupt => s.nextPc
  | .dataAbort => s.pc + 8
  | _ => s.pc + 4

/-- Exception entry (R550): the new mode with I set, T clear and F set for Reset and FIQ; the link value in the new
mode's x[14]; `saved` in its SPSR; the pc at the vector. -/
def enterException (e : Exception) (link saved : Word) (s : State) : State :=
  let f := Psr.f s.cpsr || e.masksFiq
  let entered := s.setCpsr (Psr.withControl s.cpsr true f false e.mode.bits)
  ((entered.setX 14 link).setSpsr saved).setPc (s.vectorBase + e.offset)

/-- The coprocessors see the Reset exception (R46; log entry 6). -/
def State.resetCps (s : State) : State := { s with cpPast := .reset :: s.cpPast }

/-- TAKING AN EXCEPTION. For Reset the link, the saved status and the flags N, Z, C, V, Q are unspecified (R46, R551): free
values, the reserved bits of the saved status zero as R37 has them (log entry 19); the state of a coprocessor afterwards is
the coprocessor's (R46), and the model's choice is to record the event for it (log entry 6). -/
def takeException (e : Exception) (s : State) : State :=
  match e with
  | .reset =>
    let flags := (Config.freeWord (s.freeCount + 2)).extractLsb' 27 5 ++ s.cpsr.extractLsb' 0 27
    enterException .reset s.free (Config.freeWord (s.freeCount + 1) &&& 0xF80000FF)
      ((s.setCpsr flags).useFree 3).resetCps
  | e => enterException e (e.link s) s.cpsr s

/-- The Undefined Instruction exception as an instruction's outcome (R552). -/
def undefinedInstruction (s : State) : Result := .next (takeException .undefined s)

/-- RETURNING FROM AN EXCEPTION to `v`: the CPSR is loaded from the SPSR and the pc aligned to the restored state (R323,
R398, R565). -/
def exceptionReturn (s : State) (v : Word) : Result :=
  match s.spsr? with
  | none => .refused .noSpsr
  | some p =>
    if (Mode.ofBits? (Psr.m p)).isSome then
      .next ((s.setCpsr p).setPc (if Psr.t p then alignHalf v else alignWord v))
    else .refused .illegalMode

/-! ## Memory -/

/-- The byte at an address, if it has a value. -/
def Memory.read : Memory → Nat → Option Byte
  | [], _ => Memory.unlisted
  | (k, b) :: rest, a => if k = a then some b else Memory.read rest a

/-- Memory with the byte at an address written; addresses stay in rising order. -/
def Memory.write : Memory → Nat → Byte → Memory
  | [], a, b => [(a, b)]
  | (k, c) :: rest, a, b =>
    if a < k then (a, b) :: (k, c) :: rest
    else if k = a then (a, b) :: rest
    else (k, c) :: Memory.write rest a b

/-- The canonical form: addresses strictly rising and below 2^32. No entry can equal what an unlisted address reads as,
which is no value. -/
def Memory.wf : Memory → Bool
  | [] => true
  | [(k, _)] => decide (k < 2 ^ 32)
  | (k, _) :: (l, c) :: rest => decide (k < l) && Memory.wf ((l, c) :: rest)

/-- A rising list of addresses with one added. -/
def insertAddress (a : Nat) : List Nat → List Nat
  | [] => [a]
  | k :: rest => if a < k then a :: k :: rest else if k = a then k :: rest else k :: insertAddress a rest

/-- Addresses strictly rising and below 2^32. -/
def addressesRise : List Nat → Bool
  | [] => true
  | [k] => decide (k < 2 ^ 32)
  | k :: l :: rest => decide (k < l) && addressesRise (l :: rest)

/-- The byte at an address, if it has a value. -/
def State.byte (s : State) (a : Word) : Option Byte := Memory.read s.mem a.toNat

/-- Store one byte: write memory and record the address (R90). -/
def State.storeByte (s : State) (a : Word) (b : Byte) : State :=
  { s with mem := Memory.write s.mem a.toNat b, stored := insertAddress a.toNat s.stored }

/-- Store bytes at rising addresses. -/
def State.storeBytes (s : State) (a : Word) : List Byte → State
  | [] => s
  | b :: rest => (s.storeByte a b).storeBytes (a + 1) rest

/-- The halfword at an aligned address, if its bytes have values (R63, R64). -/
def State.half (s : State) (a : Word) : Option Half :=
  match s.byte a, s.byte (a + 1) with
  | some b0, some b1 => some (joinHalf s.settings.bigend b0 b1)
  | _, _ => none

/-- The word at an aligned address, if its bytes have values (R63, R64). -/
def State.word (s : State) (a : Word) : Option Word :=
  match s.byte a, s.byte (a + 1), s.byte (a + 2), s.byte (a + 3) with
  | some b0, some b1, some b2, some b3 => some (joinWord s.settings.bigend b0 b1 b2 b3)
  | _, _, _, _ => none

/-- What a read of memory gives: a value, an abort by the memory system (R81), or a byte with no value (D11). -/
inductive Access (α : Type) where
  | value (v : α)
  | abort
  | unwritten
deriving DecidableEq, Repr

/-- A read of what memory holds, unless the oracle aborts it. -/
def State.access {α : Type} (s : State) (privileged : Bool) (size : Nat) (a : Word) (v : Option α) : Access α :=
  if s.settings.aborts .read privileged size a then .abort
  else
    match v with
    | some v => .value v
    | none => .unwritten

/-- `MemRead(a, 1)`, with the access rights given (R10, R78). -/
def State.readByte (s : State) (privileged : Bool) (a : Word) : Access Byte := s.access privileged 1 a (s.byte a)

/-- `MemRead(a, 2)`. -/
def State.readHalf (s : State) (privileged : Bool) (a : Word) : Access Half := s.access privileged 2 a (s.half a)

/-- `MemRead(a, 4)`. -/
def State.readWord (s : State) (privileged : Bool) (a : Word) : Access Word := s.access privileged 4 a (s.word a)

/-- A write of bytes, `none` if the oracle aborts it (R10, R78). -/
def State.writeBytes (s : State) (privileged : Bool) (a : Word) (bs : List Byte) : Option State :=
  if s.settings.aborts .write privileged bs.length a then none else some (s.storeBytes a bs)

/-- `MemWrite(a, 1, v)`. -/
def State.writeByte (s : State) (privileged : Bool) (a : Word) (v : Byte) : Option State :=
  s.writeBytes privileged a [v]

/-- `MemWrite(a, 2, v)`. -/
def State.writeHalf (s : State) (privileged : Bool) (a : Word) (v : Half) : Option State :=
  s.writeBytes privileged a (splitHalf s.settings.bigend v)

/-- `MemWrite(a, 4, v)`. -/
def State.writeWord (s : State) (privileged : Bool) (a v : Word) : Option State :=
  s.writeBytes privileged a (splitWord s.settings.bigend v)

/-! ## Data aborts -/

/-- The Data Abort exception of an instruction whose addressing mode writes `wb`: under the Base Updated Abort Model the
base holds the written-back value (R556). -/
def dataAbort (s : State) (wb : Option (Reg × Word)) : Result :=
  .next (takeException .dataAbort (if s.settings.abortModel = .baseUpdated then s.writeBack wb else s))

/-- Go on with the value of a read, or abort, or stop at a byte with no value. -/
def Access.andThen {α : Type} (r : Access α) (s : State) (wb : Option (Reg × Word)) (k : α → Result) : Result :=
  match r with
  | .value v => k v
  | .abort => dataAbort s wb
  | .unwritten => .fault .unwrittenMemory

/-- Finish a store: advance with the base written, or abort. -/
def finishStore (s : State) (written : Option State) (wb : Option (Reg × Word)) : Result :=
  match written with
  | some s' => advance (s'.writeBack wb)
  | none => dataAbort s wb

/-! ## Single transfers -/

/-- Load into a register and advance, the base written first (R375 to R380, R293 to R295). -/
def finishLoad (s : State) (m : Address) (rd : Reg) (data : Word) : Result :=
  advance ((s.writeBack m.writeBack).setX rd data)

/-- Word load: an unaligned address rotates the aligned word (R69, R375, R379); the pc may be loaded, from an aligned
address only. -/
def loadWord (s : State) (privileged : Bool) (m : Address) (rd : Reg) : Result :=
  if lowTwo m.start ≠ 0 ∧ s.settings.alignFault then dataAbort s m.writeBack
  else if rd = 15 ∧ lowTwo m.start ≠ 0 then .refused .unpredictableAlignment
  else
    (s.readWord privileged (alignWord m.start)).andThen s m.writeBack fun w =>
      let data := ror w (8 * (lowTwo m.start).toNat)
      if rd = 15 then branchExchange (s.writeBack m.writeBack) data else finishLoad s m rd data

/-- Byte load, zero-extended (R376, R380). -/
def loadByte (s : State) (privileged : Bool) (m : Address) (rd : Reg) : Result :=
  (s.readByte privileged m.start).andThen s m.writeBack fun b => finishLoad s m rd (b.setWidth 32)

/-- Byte load, sign-extended (R294). -/
def loadSignedByte (s : State) (m : Address) (rd : Reg) : Result :=
  (s.readByte s.privileged m.start).andThen s m.writeBack fun b => finishLoad s m rd (b.signExtend 32)

/-- Does an access of `size` bytes span the top of memory (R82)? -/
def spansTop (a : Word) (size : Nat) : Bool := decide (2 ^ 32 < a.toNat + size)

/-- A misaligned access of `size` bytes with no behaviour of its own: it raises Data Abort under `ALIGN_FAULT` (R70),
else goes on with `k`. One that spans the top of memory is UNPREDICTABLE either way (R82, R561; log entry 15). -/
def misaligned (s : State) (m : Address) (size : Nat) (k : Result) : Result :=
  if spansTop m.start size then .refused .addressWrap
  else if s.settings.alignFault then dataAbort s m.writeBack
  else k

/-- Halfword load, extended by `ext` (R293, R295): an odd address aborts or is UNPREDICTABLE (R68, R70). -/
def loadHalf (s : State) (m : Address) (rd : Reg) (ext : Half → Word) : Result :=
  if m.start.getLsbD 0 then misaligned s m 2 (.refused .unpredictableAlignment)
  else (s.readHalf s.privileged m.start).andThen s m.writeBack fun h => finishLoad s m rd (ext h)

/-- What STR and STM store for a register: register 15 stores `pc + STORE_PC_OFFSET` (R377, R396). -/
def State.storedValue (s : State) (rd : Reg) : Word := if rd = 15 then s.pc + s.settings.storePc.value else s.x rd

/-- Word store at the aligned address (R377, R381). -/
def storeWord (s : State) (privileged : Bool) (m : Address) (v : Word) : Result :=
  if lowTwo m.start ≠ 0 ∧ s.settings.alignFault then dataAbort s m.writeBack
  else finishStore s (s.writeWord privileged (alignWord m.start) v) m.writeBack

/-- Byte store (R378, R382). -/
def storeByte (s : State) (privileged : Bool) (m : Address) (v : Word) : Result :=
  finishStore s (s.writeByte privileged m.start (v.setWidth 8)) m.writeBack

/-- Halfword store (R292). -/
def storeHalf (s : State) (m : Address) (v : Word) : Result :=
  if m.start.getLsbD 0 then misaligned s m 2 (.refused .unpredictableAlignment)
  else finishStore s (s.writeHalf s.privileged m.start (v.setWidth 16)) m.writeBack

/-! ## Sequences of word accesses -/

/-- Read `n` words at rising addresses, low address bits ignored; the first access that does not give a value decides
(R391, R561). -/
def State.readBlock (s : State) (privileged : Bool) (a : Word) : Nat → Access (List Word)
  | 0 => .value []
  | n + 1 =>
    match s.readWord privileged (alignWord a) with
    | .abort => .abort
    | .unwritten => .unwritten
    | .value v =>
      match s.readBlock privileged (a + 4) n with
      | .abort => .abort
      | .unwritten => .unwritten
      | .value vs => .value (v :: vs)

/-- Write words at rising addresses, low address bits ignored: the state with the words below the first abort stored,
and whether an access aborted (R391, R556 (a)). -/
def State.writeBlock (s : State) (privileged : Bool) (a : Word) : List Word → State × Bool
  | [] => (s, false)
  | v :: vs =>
    match s.writeWord privileged (alignWord a) v with
    | none => (s, true)
    | some s' => s'.writeBlock privileged (a + 4) vs

/-- Does a sequence of `n` words pass the top of memory (R82, U9)? -/
def blockWraps (start : Word) (n : Nat) : Bool := decide (2 ^ 32 < (alignWord start).toNat + 4 * n)

/-- Read a block and go on with its words (R391, R394): the end of memory, then the alignment check, then the reads
(R561; log entry 15). -/
def loadBlock (s : State) (m : Address) (n : Nat) (k : List Word → Result) : Result :=
  if blockWraps m.start n then .refused .addressWrap
  else if lowTwo m.start ≠ 0 ∧ s.settings.alignFault then dataAbort s m.writeBack
  else (s.readBlock s.privileged m.start n).andThen s m.writeBack k

/-- Finish a sequence of stores: advance with the base written, or abort with the words below the abort stored
(R556). -/
def finishBlock (written : State × Bool) (wb : Option (Reg × Word)) : Result :=
  if written.2 then dataAbort written.1 wb else advance (written.1.writeBack wb)

/-- Write a block, then the base, and advance (R391, R396). -/
def storeBlock (s : State) (m : Address) (vs : List Word) : Result :=
  if blockWraps m.start vs.length then .refused .addressWrap
  else if lowTwo m.start ≠ 0 ∧ s.settings.alignFault then dataAbort s m.writeBack
  else finishBlock (s.writeBlock s.privileged m.start vs) m.writeBack

/-- Load several registers, the pc among them or not (R394, R517, R520): all words are read before any register is
written. -/
def loadMultiple (s : State) (m : Address) (list : BitVec 16) : Result :=
  let regs := listRegs list
  loadBlock s m regs.length fun vs =>
    let s' := (s.setXs (regs.zip vs)).writeBack m.writeBack
    if list.getLsbD 15 then branchExchange s' (vs.getLastD 0) else advance s'

/-- Is the value STM stores for this register unstated? It is for a base that is written back and is not the lowest
register of the list (R396, R519, U6, U24). -/
def storesFree (m : Address) (regs : List Reg) (i : Reg) : Bool :=
  (m.writeBack.map Prod.fst == some i) && regs.head? != some i

/-- What a store multiple stores for a register of its list. -/
def State.blockValue (s : State) (m : Address) (regs : List Reg) (i : Reg) : Word :=
  if storesFree m regs i then s.free else s.storedValue i

/-- Store several registers (R396, R516, R519): all are read before the base is written back. -/
def storeMultiple (s : State) (m : Address) (list : BitVec 16) : Result :=
  let regs := listRegs list
  storeBlock (s.useFree (bit (regs.any (storesFree m regs)))) m (regs.map (s.blockValue m regs))

/-! ## What every meaning does first -/

/-- Is the instruction's word defined, as far as its bits alone say (R171, D15)? -/
def staticOk (i : Instr) : Bool := i.wf

/-- An instruction that is not conditional. -/
def always (i : Instr) (body : Result) : Result := if staticOk i then body else .refused .unpredictableEncoding

/-- An instruction with a condition: what is UNPREDICTABLE by its bits alone is so whatever the condition (R171); an
instruction whose condition fails only advances (R170 item 6). -/
def onCondition (i : Instr) (c : Cond) (s : State) (body : Result) : Result :=
  always i (if Cond.holds c s.cpsr then body else advance s)

end Sys2Proof.Machine
end

