-- ==== Sys2Proof/Machine/Block.lean ====
section
/-! DEFINITION. Load and store multiple (R390 to R398). -/

namespace Sys2Proof.Machine

/-- Load registers of the User bank: a mode with an SPSR only (R395). -/
def loadUser (s : State) (m : Address) (list : BitVec 16) : Result :=
  if s.spsr?.isNone then .refused .noSpsr
  else loadBlock s m (listRegs list).length fun vs => advance (s.setXsUsr ((listRegs list).zip vs))

/-- Load registers of the current bank, the base, then return from the exception (R398). -/
def loadReturn (s : State) (m : Address) (list : BitVec 16) : Result :=
  if s.spsr?.isNone then .refused .noSpsr
  else
    loadBlock s m (listRegs list).length fun vs =>
      exceptionReturn ((s.setXs ((listRegs list).zip vs)).writeBack m.writeBack) (vs.getLastD 0)

/-- Store registers of the User bank: a mode with an SPSR only (R397). -/
def storeUser (s : State) (m : Address) (list : BitVec 16) : Result :=
  if s.spsr?.isNone then .refused .noSpsr
  else storeBlock s m ((listRegs list).map fun i => if i = 15 then s.pc + s.settings.storePc.value else s.xUsr i)

/-- LDM (1) (R394, R141). -/
def execLdm1 (c : Cond) (p u w : Bool) (rn : Reg) (list : BitVec 16) (s : State) : Result :=
  onCondition (.ldm1 c p u w rn list) c s (loadMultiple s (block p u w rn (s.x rn) list) list)

/-- LDM (2), User registers (R395, R141). -/
def execLdm2 (c : Cond) (p u w : Bool) (rn : Reg) (list : BitVec 15) (s : State) : Result :=
  onCondition (.ldm2 c p u w rn list) c s (loadUser s (block p u false rn (s.x rn) (0#1 ++ list)) (0#1 ++ list))

/-- LDM (3), exception return (R398, R141). -/
def execLdm3 (c : Cond) (p u w : Bool) (rn : Reg) (list : BitVec 15) (s : State) : Result :=
  onCondition (.ldm3 c p u w rn list) c s (loadReturn s (block p u w rn (s.x rn) (1#1 ++ list)) (1#1 ++ list))

/-- STM (1) (R396, R141). -/
def execStm1 (c : Cond) (p u w : Bool) (rn : Reg) (list : BitVec 16) (s : State) : Result :=
  onCondition (.stm1 c p u w rn list) c s (storeMultiple s (block p u w rn (s.x rn) list) list)

/-- STM (2), User registers (R397, R141). -/
def execStm2 (c : Cond) (p u w : Bool) (rn : Reg) (list : BitVec 16) (s : State) : Result :=
  onCondition (.stm2 c p u w rn list) c s (storeUser s (block p u false rn (s.x rn) list) list)

end Sys2Proof.Machine
end

