-- ==== Sys2Proof/Machine/Branch.lean ====
section
/-! DEFINITION. Branches, the software interrupt, and the Undefined rows (R420 to R433, R449). -/

namespace Sys2Proof.Machine

/-- B (R420, R142). -/
def execB (c : Cond) (offset24 : BitVec 24) (s : State) : Result :=
  onCondition (.b c offset24) c s (branchTo s (s.branchTarget? (wordOffset offset24)))

/-- BL (R421, R142). -/
def execBl (c : Cond) (offset24 : BitVec 24) (s : State) : Result :=
  onCondition (.bl c offset24) c s (branchTo (s.setX 14 (s.pc + 4)) (s.branchTarget? (wordOffset offset24)))

/-- BLX (immediate) (R422, R131). -/
def execBlxImm (h : Bool) (offset24 : BitVec 24) (s : State) : Result :=
  always (.blxImm h offset24)
    (branchTo ((s.setX 14 (s.pc + 4)).setCpsr (Psr.withT s.cpsr true))
      (s.branchTarget? (wordOffset offset24 + 2 * bit h)))

/-- SWI (R425, R138). -/
def execSwi (c : Cond) (number : BitVec 24) (s : State) : Result :=
  onCondition (.swi c number) c s (.next (takeException .softwareInterrupt s))

/-- Undefined: coprocessor extension space with cond = 1111 (R432). -/
def execUndefCoprocExtUncond (n : Bool) (low : BitVec 21) (s : State) : Result :=
  always (.undefCoprocExtUncond n low) (undefinedInstruction s)

/-- Undefined: row 17 of the class table (R430). -/
def execUndefSwiUncond (low : BitVec 24) (s : State) : Result :=
  always (.undefSwiUncond low) (undefinedInstruction s)

/-- Undefined: row 21 of the class table (R430). -/
def execUndefBlockUncond (low : BitVec 25) (s : State) : Result :=
  always (.undefBlockUncond low) (undefinedInstruction s)

/-- Undefined: any other word with bits [31:28] = 1111 (R432). -/
def execUndefUncond (low : BitVec 28) (s : State) : Result :=
  always (.undefUncond low) (undefinedInstruction s)

/-- Undefined: bits [27:25] = 000 and [7:4] = 1001, neither multiply nor swap (R433 (a), R103). -/
def execUndefArith (c : Cond) (op : BitVec 5) (mid : BitVec 12) (low : BitVec 4) (s : State) : Result :=
  onCondition (.undefArith c op mid low) c s (undefinedInstruction s)

/-- Undefined: row 20 of the class table (R430). -/
def execUndefImmCompare (c : Cond) (r : Bool) (low : BitVec 20) (s : State) : Result :=
  onCondition (.undefImmCompare c r low) c s (undefinedInstruction s)

/-- Undefined: compare code points with S = 0 that no earlier row takes (R433 (b), R346). -/
def execUndefCompare (c : Cond) (op : BitVec 2) (low : BitVec 20) (s : State) : Result :=
  onCondition (.undefCompare c op low) c s (undefinedInstruction s)

/-- Undefined: row 28 of the class table (R430). -/
def execUndefMedia (c : Cond) (high : BitVec 20) (low : BitVec 4) (s : State) : Result :=
  onCondition (.undefMedia c high low) c s (undefinedInstruction s)

/-- Undefined: coprocessor extension space (R449). -/
def execUndefCoprocExt (c : Cond) (low : BitVec 21) (s : State) : Result :=
  onCondition (.undefCoprocExt c low) c s (undefinedInstruction s)

end Sys2Proof.Machine
end

