-- ==== Sys2Proof/Machine/Coprocessor.lean ====
section
/-! DEFINITION. The coprocessor instructions (R440 to R448). How operations are answered is data (`State.coprocs`) or free
(`Config.cpReply`), what the coprocessors keep is the list of what they have seen (`State.cpPast`), and the words they give
are free values (log entry 6). -/

namespace Sys2Proof.Machine

/-- What a coprocessor has seen, newest first (R39). -/
def State.cpHistory (s : State) (cp : CpNum) : List CpEvent := s.cpPast.filter (CpEvent.concerns cp)

/-- Does the coprocessor accept an operation with these words, and how many words less one does it then ask for (R440)? The
first line of `Coproc` for the operation answers. -/
def State.accepts? (s : State) (cp : CpNum) (op : CpOp) (words : List Word) : Option (BitVec 4) :=
  match s.coprocs.find? fun r => r.cp == cp && r.op == op with
  | none => none
  | some r =>
    match r.answer with
    | .takes lessOne => some lessOne
    | .decides => Config.cpReply cp op words (s.cpHistory cp)

/-- The j-th word the coprocessor gives for an operation: a free value (R440; log entry 6). -/
def State.cpWord (s : State) (cp : CpNum) (op : CpOp) (j : Nat) : Word := Config.cpWord cp op (s.cpHistory cp) j

/-- The coprocessor takes an operation with its words: its new state (R441, R442, R444, R446). -/
def State.cpTake (s : State) (cp : CpNum) (op : CpOp) (words : List Word) : State :=
  { s with cpPast := .took cp op words :: s.cpPast }

/-- Offer an operation with its words: go on if it is accepted, with how many words less one are asked for; else the
Undefined Instruction exception (R440). -/
def offer (s : State) (cp : CpNum) (op : CpOp) (words : List Word) (k : BitVec 4 → Result) : Result :=
  match s.accepts? cp op words with
  | some lessOne => k lessOne
  | none => undefinedInstruction s

/-- CDP, MCR, MCRR: hand over an operation and its words (R441, R442, R446). -/
def sendToCp (s : State) (cp : CpNum) (op : CpOp) (words : List Word) : Result :=
  offer s cp op words fun _ => advance (s.cpTake cp op words)

/-- MRC: to a register, or with the pc as destination to the flags (R443). -/
def moveFromCp (s : State) (cp : CpNum) (op : CpOp) (rd : Reg) : Result :=
  offer s cp op [] fun _ =>
    let data := s.cpWord cp op 0
    advance
      (if rd = 15 then
        s.setCpsr (Psr.withNZCV s.cpsr (data.getLsbD 31) (data.getLsbD 30) (data.getLsbD 29) (data.getLsbD 28))
      else s.setX rd data)

/-- MRRC (R447). -/
def movePairFromCp (s : State) (cp : CpNum) (op : CpOp) (rd rn : Reg) : Result :=
  offer s cp op [] fun _ => advance ((s.setX rd (s.cpWord cp op 0)).setX rn (s.cpWord cp op 1))

/-- The option of the unindexed form, which the coprocessor is given (R155, R444). -/
def cpOption (p w : Bool) (offset8 : BitVec 8) : Option (BitVec 8) := if p || w then none else some offset8

/-- How many words the coprocessor asks for, 1 to 16 (R440). -/
def wordCount (lessOne : BitVec 4) : Nat := lessOne.toNat + 1

/-- LDC: read the words the coprocessor asks for, hand them over, write the base (R444); on an abort nothing is handed
over (R556 (f)). -/
def loadCp (s : State) (cp : CpNum) (op : CpOp) (m : Address) : Result :=
  offer s cp op [] fun n => loadBlock s m (wordCount n) fun vs => advance ((s.cpTake cp op vs).writeBack m.writeBack)

/-- STC: store the words the coprocessor gives, write the base (R445). -/
def storeCp (s : State) (cp : CpNum) (op : CpOp) (m : Address) : Result :=
  offer s cp op [] fun n => storeBlock s m ((List.range (wordCount n)).map (s.cpWord cp op))

/-- LDC2 (R448). -/
def execLdc2 (p u n w : Bool) (rn : Reg) (crd cp : CpNum) (offset8 : BitVec 8) (s : State) : Result :=
  always (.ldc2 p u n w rn crd cp offset8)
    (loadCp s cp (.ldc crd n true (cpOption p w offset8)) (cpIndexed p u w rn (s.x rn) offset8))

/-- STC2 (R448). -/
def execStc2 (p u n w : Bool) (rn : Reg) (crd cp : CpNum) (offset8 : BitVec 8) (s : State) : Result :=
  always (.stc2 p u n w rn crd cp offset8)
    (storeCp s cp (.stc crd n true (cpOption p w offset8)) (cpIndexed p u w rn (s.x rn) offset8))

/-- CDP2 (R448). -/
def execCdp2 (opcode1 : BitVec 4) (crn crd cp : CpNum) (opcode2 : BitVec 3) (crm : CpNum) (s : State) : Result :=
  always (.cdp2 opcode1 crn crd cp opcode2 crm) (sendToCp s cp (.cdp opcode1 opcode2 crd crn crm true) [])

/-- MCR2 (R448). -/
def execMcr2 (opcode1 : BitVec 3) (crn : CpNum) (rd : Reg) (cp : CpNum) (opcode2 : BitVec 3) (crm : CpNum) (s : State) :
    Result :=
  always (.mcr2 opcode1 crn rd cp opcode2 crm)
    (sendToCp s cp (.mcr opcode1 opcode2 crn crm true s.privileged) [s.x rd])

/-- MRC2 (R448). -/
def execMrc2 (opcode1 : BitVec 3) (crn : CpNum) (rd : Reg) (cp : CpNum) (opcode2 : BitVec 3) (crm : CpNum) (s : State) :
    Result :=
  always (.mrc2 opcode1 crn rd cp opcode2 crm) (moveFromCp s cp (.mrc opcode1 opcode2 crn crm true s.privileged) rd)

/-- CDP (R441, R132). -/
def execCdp (c : Cond) (opcode1 : BitVec 4) (crn crd cp : CpNum) (opcode2 : BitVec 3) (crm : CpNum) (s : State) :
    Result :=
  onCondition (.cdp c opcode1 crn crd cp opcode2 crm) c s (sendToCp s cp (.cdp opcode1 opcode2 crd crn crm false) [])

/-- MCR (R442, R133). -/
def execMcr (c : Cond) (opcode1 : BitVec 3) (crn : CpNum) (rd : Reg) (cp : CpNum) (opcode2 : BitVec 3) (crm : CpNum) (s : State) :
    Result :=
  onCondition (.mcr c opcode1 crn rd cp opcode2 crm) c s
    (sendToCp s cp (.mcr opcode1 opcode2 crn crm false s.privileged) [s.x rd])

/-- MRC (R443, R133). -/
def execMrc (c : Cond) (opcode1 : BitVec 3) (crn : CpNum) (rd : Reg) (cp : CpNum) (opcode2 : BitVec 3) (crm : CpNum) (s : State) :
    Result :=
  onCondition (.mrc c opcode1 crn rd cp opcode2 crm) c s
    (moveFromCp s cp (.mrc opcode1 opcode2 crn crm false s.privileged) rd)

/-- MCRR (R446, R143). -/
def execMcrr (c : Cond) (rn rd : Reg) (cp : CpNum) (opcode : BitVec 4) (crm : CpNum) (s : State) : Result :=
  onCondition (.mcrr c rn rd cp opcode crm) c s (sendToCp s cp (.mcrr opcode crm) [s.x rd, s.x rn])

/-- MRRC (R447, R143). -/
def execMrrc (c : Cond) (rn rd : Reg) (cp : CpNum) (opcode : BitVec 4) (crm : CpNum) (s : State) : Result :=
  onCondition (.mrrc c rn rd cp opcode crm) c s (movePairFromCp s cp (.mrrc opcode crm) rd rn)

/-- LDC (R444, R143). -/
def execLdc (c : Cond) (p u n w : Bool) (rn : Reg) (crd cp : CpNum) (offset8 : BitVec 8) (s : State) : Result :=
  onCondition (.ldc c p u n w rn crd cp offset8) c s
    (loadCp s cp (.ldc crd n false (cpOption p w offset8)) (cpIndexed p u w rn (s.x rn) offset8))

/-- STC (R445, R143). -/
def execStc (c : Cond) (p u n w : Bool) (rn : Reg) (crd cp : CpNum) (offset8 : BitVec 8) (s : State) : Result :=
  onCondition (.stc c p u n w rn crd cp offset8) c s
    (storeCp s cp (.stc crd n false (cpOption p w offset8)) (cpIndexed p u w rn (s.x rn) offset8))

end Sys2Proof.Machine
end

