-- ==== Sys2Proof/Machine/DataProcessing.lean ====
section
/-! DEFINITION. The data-processing instructions (R320 to R345): the sixteen operations, each with a register-shift, an
immediate-shift and an immediate operand. -/

namespace Sys2Proof.Machine

/-- The operand of rows of class 25: Rm shifted by the low byte of Rs (R181 to R184). -/
def State.regShift (s : State) (rs : Reg) (sh : Shift) (rm : Reg) : Operand2 :=
  shiftByReg sh (s.x rm) ((s.x rs).setWidth 8) (Psr.c s.cpsr)

/-- The operand of rows of class 26: Rm shifted by an immediate (R177 to R180). -/
def State.immShift (s : State) (n : BitVec 5) (sh : Shift) (rm : Reg) : Operand2 :=
  shiftByImm sh (s.x rm) n (Psr.c s.cpsr)

/-- The operand of rows of class 30: the rotated immediate (R176). -/
def State.immediate (s : State) (rotate : BitVec 4) (imm8 : BitVec 8) : Operand2 :=
  immOperand rotate imm8 (Psr.c s.cpsr)

/-- Write the result, and the flags if S = 1 (R322); with the pc as destination, a plain branch or the return from an
exception (R323). -/
def writeResult (s : State) (sf : Bool) (rd : Reg) (o : Alu) : Result :=
  if rd = 15 then if sf then exceptionReturn s o.result else branchPlain s o.result
  else
    let s' := s.setX rd o.result
    advance (if sf then s'.setCpsr (o.flags s.cpsr) else s')

/-- Set the flags and write no register: TST, TEQ, CMP, CMN (R322). -/
def testResult (s : State) (o : Alu) : Result := advance (s.setCpsr (o.flags s.cpsr))

/-- AND, register shift (R330, R134). -/
def execAndRegShift (c : Cond) (sf : Bool) (rn rd rs : Reg) (sh : Shift) (rm : Reg) (s : State) : Result :=
  onCondition (.andRegShift c sf rn rd rs sh rm) c s
    (writeResult s sf rd (aluAnd (s.x rn) (s.regShift rs sh rm) s.cpsr))

/-- EOR, register shift (R331, R134). -/
def execEorRegShift (c : Cond) (sf : Bool) (rn rd rs : Reg) (sh : Shift) (rm : Reg) (s : State) : Result :=
  onCondition (.eorRegShift c sf rn rd rs sh rm) c s
    (writeResult s sf rd (aluEor (s.x rn) (s.regShift rs sh rm) s.cpsr))

/-- SUB, register shift (R332, R134). -/
def execSubRegShift (c : Cond) (sf : Bool) (rn rd rs : Reg) (sh : Shift) (rm : Reg) (s : State) : Result :=
  onCondition (.subRegShift c sf rn rd rs sh rm) c s
    (writeResult s sf rd (aluSub (s.x rn) (s.regShift rs sh rm).value))

/-- RSB, register shift (R333, R134). -/
def execRsbRegShift (c : Cond) (sf : Bool) (rn rd rs : Reg) (sh : Shift) (rm : Reg) (s : State) : Result :=
  onCondition (.rsbRegShift c sf rn rd rs sh rm) c s
    (writeResult s sf rd (aluRsb (s.x rn) (s.regShift rs sh rm).value))

/-- ADD, register shift (R334, R134). -/
def execAddRegShift (c : Cond) (sf : Bool) (rn rd rs : Reg) (sh : Shift) (rm : Reg) (s : State) : Result :=
  onCondition (.addRegShift c sf rn rd rs sh rm) c s
    (writeResult s sf rd (aluAdd (s.x rn) (s.regShift rs sh rm).value))

/-- ADC, register shift (R335, R134). -/
def execAdcRegShift (c : Cond) (sf : Bool) (rn rd rs : Reg) (sh : Shift) (rm : Reg) (s : State) : Result :=
  onCondition (.adcRegShift c sf rn rd rs sh rm) c s
    (writeResult s sf rd (aluAdc (s.x rn) (s.regShift rs sh rm).value s.cpsr))

/-- SBC, register shift (R336, R134). -/
def execSbcRegShift (c : Cond) (sf : Bool) (rn rd rs : Reg) (sh : Shift) (rm : Reg) (s : State) : Result :=
  onCondition (.sbcRegShift c sf rn rd rs sh rm) c s
    (writeResult s sf rd (aluSbc (s.x rn) (s.regShift rs sh rm).value s.cpsr))

/-- RSC, register shift (R337, R134). -/
def execRscRegShift (c : Cond) (sf : Bool) (rn rd rs : Reg) (sh : Shift) (rm : Reg) (s : State) : Result :=
  onCondition (.rscRegShift c sf rn rd rs sh rm) c s
    (writeResult s sf rd (aluRsc (s.x rn) (s.regShift rs sh rm).value s.cpsr))

/-- TST, register shift (R338, R134). -/
def execTstRegShift (c : Cond) (rn : Reg) (sbz : BitVec 4) (rs : Reg) (sh : Shift) (rm : Reg) (s : State) : Result :=
  onCondition (.tstRegShift c rn sbz rs sh rm) c s (testResult s (aluAnd (s.x rn) (s.regShift rs sh rm) s.cpsr))

/-- TEQ, register shift (R339, R134). -/
def execTeqRegShift (c : Cond) (rn : Reg) (sbz : BitVec 4) (rs : Reg) (sh : Shift) (rm : Reg) (s : State) : Result :=
  onCondition (.teqRegShift c rn sbz rs sh rm) c s (testResult s (aluEor (s.x rn) (s.regShift rs sh rm) s.cpsr))

/-- CMP, register shift (R340, R134). -/
def execCmpRegShift (c : Cond) (rn : Reg) (sbz : BitVec 4) (rs : Reg) (sh : Shift) (rm : Reg) (s : State) : Result :=
  onCondition (.cmpRegShift c rn sbz rs sh rm) c s (testResult s (aluSub (s.x rn) (s.regShift rs sh rm).value))

/-- CMN, register shift (R341, R134). -/
def execCmnRegShift (c : Cond) (rn : Reg) (sbz : BitVec 4) (rs : Reg) (sh : Shift) (rm : Reg) (s : State) : Result :=
  onCondition (.cmnRegShift c rn sbz rs sh rm) c s (testResult s (aluAdd (s.x rn) (s.regShift rs sh rm).value))

/-- ORR, register shift (R342, R134). -/
def execOrrRegShift (c : Cond) (sf : Bool) (rn rd rs : Reg) (sh : Shift) (rm : Reg) (s : State) : Result :=
  onCondition (.orrRegShift c sf rn rd rs sh rm) c s
    (writeResult s sf rd (aluOrr (s.x rn) (s.regShift rs sh rm) s.cpsr))

/-- MOV, register shift (R343, R134). -/
def execMovRegShift (c : Cond) (sf : Bool) (sbz : BitVec 4) (rd rs : Reg) (sh : Shift) (rm : Reg) (s : State) :
    Result :=
  onCondition (.movRegShift c sf sbz rd rs sh rm) c s (writeResult s sf rd (aluMov (s.regShift rs sh rm) s.cpsr))

/-- BIC, register shift (R344, R134). -/
def execBicRegShift (c : Cond) (sf : Bool) (rn rd rs : Reg) (sh : Shift) (rm : Reg) (s : State) : Result :=
  onCondition (.bicRegShift c sf rn rd rs sh rm) c s
    (writeResult s sf rd (aluBic (s.x rn) (s.regShift rs sh rm) s.cpsr))

/-- MVN, register shift (R345, R134). -/
def execMvnRegShift (c : Cond) (sf : Bool) (sbz : BitVec 4) (rd rs : Reg) (sh : Shift) (rm : Reg) (s : State) :
    Result :=
  onCondition (.mvnRegShift c sf sbz rd rs sh rm) c s (writeResult s sf rd (aluMvn (s.regShift rs sh rm) s.cpsr))

/-- AND, immediate shift (R330, R135). -/
def execAndImmShift (c : Cond) (sf : Bool) (rn rd : Reg) (shiftImm : BitVec 5) (sh : Shift) (rm : Reg) (s : State) :
    Result :=
  onCondition (.andImmShift c sf rn rd shiftImm sh rm) c s
    (writeResult s sf rd (aluAnd (s.x rn) (s.immShift shiftImm sh rm) s.cpsr))

/-- EOR, immediate shift (R331, R135). -/
def execEorImmShift (c : Cond) (sf : Bool) (rn rd : Reg) (shiftImm : BitVec 5) (sh : Shift) (rm : Reg) (s : State) :
    Result :=
  onCondition (.eorImmShift c sf rn rd shiftImm sh rm) c s
    (writeResult s sf rd (aluEor (s.x rn) (s.immShift shiftImm sh rm) s.cpsr))

/-- SUB, immediate shift (R332, R135). -/
def execSubImmShift (c : Cond) (sf : Bool) (rn rd : Reg) (shiftImm : BitVec 5) (sh : Shift) (rm : Reg) (s : State) :
    Result :=
  onCondition (.subImmShift c sf rn rd shiftImm sh rm) c s
    (writeResult s sf rd (aluSub (s.x rn) (s.immShift shiftImm sh rm).value))

/-- RSB, immediate shift (R333, R135). -/
def execRsbImmShift (c : Cond) (sf : Bool) (rn rd : Reg) (shiftImm : BitVec 5) (sh : Shift) (rm : Reg) (s : State) :
    Result :=
  onCondition (.rsbImmShift c sf rn rd shiftImm sh rm) c s
    (writeResult s sf rd (aluRsb (s.x rn) (s.immShift shiftImm sh rm).value))

/-- ADD, immediate shift (R334, R135). -/
def execAddImmShift (c : Cond) (sf : Bool) (rn rd : Reg) (shiftImm : BitVec 5) (sh : Shift) (rm : Reg) (s : State) :
    Result :=
  onCondition (.addImmShift c sf rn rd shiftImm sh rm) c s
    (writeResult s sf rd (aluAdd (s.x rn) (s.immShift shiftImm sh rm).value))

/-- ADC, immediate shift (R335, R135). -/
def execAdcImmShift (c : Cond) (sf : Bool) (rn rd : Reg) (shiftImm : BitVec 5) (sh : Shift) (rm : Reg) (s : State) :
    Result :=
  onCondition (.adcImmShift c sf rn rd shiftImm sh rm) c s
    (writeResult s sf rd (aluAdc (s.x rn) (s.immShift shiftImm sh rm).value s.cpsr))

/-- SBC, immediate shift (R336, R135). -/
def execSbcImmShift (c : Cond) (sf : Bool) (rn rd : Reg) (shiftImm : BitVec 5) (sh : Shift) (rm : Reg) (s : State) :
    Result :=
  onCondition (.sbcImmShift c sf rn rd shiftImm sh rm) c s
    (writeResult s sf rd (aluSbc (s.x rn) (s.immShift shiftImm sh rm).value s.cpsr))

/-- RSC, immediate shift (R337, R135). -/
def execRscImmShift (c : Cond) (sf : Bool) (rn rd : Reg) (shiftImm : BitVec 5) (sh : Shift) (rm : Reg) (s : State) :
    Result :=
  onCondition (.rscImmShift c sf rn rd shiftImm sh rm) c s
    (writeResult s sf rd (aluRsc (s.x rn) (s.immShift shiftImm sh rm).value s.cpsr))

/-- TST, immediate shift (R338, R135). -/
def execTstImmShift (c : Cond) (rn : Reg) (sbz : BitVec 4) (shiftImm : BitVec 5) (sh : Shift) (rm : Reg) (s : State) :
    Result :=
  onCondition (.tstImmShift c rn sbz shiftImm sh rm) c s
    (testResult s (aluAnd (s.x rn) (s.immShift shiftImm sh rm) s.cpsr))

/-- TEQ, immediate shift (R339, R135). -/
def execTeqImmShift (c : Cond) (rn : Reg) (sbz : BitVec 4) (shiftImm : BitVec 5) (sh : Shift) (rm : Reg) (s : State) :
    Result :=
  onCondition (.teqImmShift c rn sbz shiftImm sh rm) c s
    (testResult s (aluEor (s.x rn) (s.immShift shiftImm sh rm) s.cpsr))

/-- CMP, immediate shift (R340, R135). -/
def execCmpImmShift (c : Cond) (rn : Reg) (sbz : BitVec 4) (shiftImm : BitVec 5) (sh : Shift) (rm : Reg) (s : State) :
    Result :=
  onCondition (.cmpImmShift c rn sbz shiftImm sh rm) c s
    (testResult s (aluSub (s.x rn) (s.immShift shiftImm sh rm).value))

/-- CMN, immediate shift (R341, R135). -/
def execCmnImmShift (c : Cond) (rn : Reg) (sbz : BitVec 4) (shiftImm : BitVec 5) (sh : Shift) (rm : Reg) (s : State) :
    Result :=
  onCondition (.cmnImmShift c rn sbz shiftImm sh rm) c s
    (testResult s (aluAdd (s.x rn) (s.immShift shiftImm sh rm).value))

/-- ORR, immediate shift (R342, R135). -/
def execOrrImmShift (c : Cond) (sf : Bool) (rn rd : Reg) (shiftImm : BitVec 5) (sh : Shift) (rm : Reg) (s : State) :
    Result :=
  onCondition (.orrImmShift c sf rn rd shiftImm sh rm) c s
    (writeResult s sf rd (aluOrr (s.x rn) (s.immShift shiftImm sh rm) s.cpsr))

/-- MOV, immediate shift (R343, R135). -/
def execMovImmShift (c : Cond) (sf : Bool) (sbz : BitVec 4) (rd : Reg) (shiftImm : BitVec 5) (sh : Shift) (rm : Reg) (s : State) :
    Result :=
  onCondition (.movImmShift c sf sbz rd shiftImm sh rm) c s
    (writeResult s sf rd (aluMov (s.immShift shiftImm sh rm) s.cpsr))

/-- BIC, immediate shift (R344, R135). -/
def execBicImmShift (c : Cond) (sf : Bool) (rn rd : Reg) (shiftImm : BitVec 5) (sh : Shift) (rm : Reg) (s : State) :
    Result :=
  onCondition (.bicImmShift c sf rn rd shiftImm sh rm) c s
    (writeResult s sf rd (aluBic (s.x rn) (s.immShift shiftImm sh rm) s.cpsr))

/-- MVN, immediate shift (R345, R135). -/
def execMvnImmShift (c : Cond) (sf : Bool) (sbz : BitVec 4) (rd : Reg) (shiftImm : BitVec 5) (sh : Shift) (rm : Reg) (s : State) :
    Result :=
  onCondition (.mvnImmShift c sf sbz rd shiftImm sh rm) c s
    (writeResult s sf rd (aluMvn (s.immShift shiftImm sh rm) s.cpsr))

/-- AND, immediate (R330, R139). -/
def execAndImm (c : Cond) (sf : Bool) (rn rd : Reg) (rotate : BitVec 4) (imm8 : BitVec 8) (s : State) : Result :=
  onCondition (.andImm c sf rn rd rotate imm8) c s
    (writeResult s sf rd (aluAnd (s.x rn) (s.immediate rotate imm8) s.cpsr))

/-- EOR, immediate (R331, R139). -/
def execEorImm (c : Cond) (sf : Bool) (rn rd : Reg) (rotate : BitVec 4) (imm8 : BitVec 8) (s : State) : Result :=
  onCondition (.eorImm c sf rn rd rotate imm8) c s
    (writeResult s sf rd (aluEor (s.x rn) (s.immediate rotate imm8) s.cpsr))

/-- SUB, immediate (R332, R139). -/
def execSubImm (c : Cond) (sf : Bool) (rn rd : Reg) (rotate : BitVec 4) (imm8 : BitVec 8) (s : State) : Result :=
  onCondition (.subImm c sf rn rd rotate imm8) c s
    (writeResult s sf rd (aluSub (s.x rn) (s.immediate rotate imm8).value))

/-- RSB, immediate (R333, R139). -/
def execRsbImm (c : Cond) (sf : Bool) (rn rd : Reg) (rotate : BitVec 4) (imm8 : BitVec 8) (s : State) : Result :=
  onCondition (.rsbImm c sf rn rd rotate imm8) c s
    (writeResult s sf rd (aluRsb (s.x rn) (s.immediate rotate imm8).value))

/-- ADD, immediate (R334, R139). -/
def execAddImm (c : Cond) (sf : Bool) (rn rd : Reg) (rotate : BitVec 4) (imm8 : BitVec 8) (s : State) : Result :=
  onCondition (.addImm c sf rn rd rotate imm8) c s
    (writeResult s sf rd (aluAdd (s.x rn) (s.immediate rotate imm8).value))

/-- ADC, immediate (R335, R139). -/
def execAdcImm (c : Cond) (sf : Bool) (rn rd : Reg) (rotate : BitVec 4) (imm8 : BitVec 8) (s : State) : Result :=
  onCondition (.adcImm c sf rn rd rotate imm8) c s
    (writeResult s sf rd (aluAdc (s.x rn) (s.immediate rotate imm8).value s.cpsr))

/-- SBC, immediate (R336, R139). -/
def execSbcImm (c : Cond) (sf : Bool) (rn rd : Reg) (rotate : BitVec 4) (imm8 : BitVec 8) (s : State) : Result :=
  onCondition (.sbcImm c sf rn rd rotate imm8) c s
    (writeResult s sf rd (aluSbc (s.x rn) (s.immediate rotate imm8).value s.cpsr))

/-- RSC, immediate (R337, R139). -/
def execRscImm (c : Cond) (sf : Bool) (rn rd : Reg) (rotate : BitVec 4) (imm8 : BitVec 8) (s : State) : Result :=
  onCondition (.rscImm c sf rn rd rotate imm8) c s
    (writeResult s sf rd (aluRsc (s.x rn) (s.immediate rotate imm8).value s.cpsr))

/-- TST, immediate (R338, R139). -/
def execTstImm (c : Cond) (rn : Reg) (sbz rotate : BitVec 4) (imm8 : BitVec 8) (s : State) : Result :=
  onCondition (.tstImm c rn sbz rotate imm8) c s (testResult s (aluAnd (s.x rn) (s.immediate rotate imm8) s.cpsr))

/-- TEQ, immediate (R339, R139). -/
def execTeqImm (c : Cond) (rn : Reg) (sbz rotate : BitVec 4) (imm8 : BitVec 8) (s : State) : Result :=
  onCondition (.teqImm c rn sbz rotate imm8) c s (testResult s (aluEor (s.x rn) (s.immediate rotate imm8) s.cpsr))

/-- CMP, immediate (R340, R139). -/
def execCmpImm (c : Cond) (rn : Reg) (sbz rotate : BitVec 4) (imm8 : BitVec 8) (s : State) : Result :=
  onCondition (.cmpImm c rn sbz rotate imm8) c s (testResult s (aluSub (s.x rn) (s.immediate rotate imm8).value))

/-- CMN, immediate (R341, R139). -/
def execCmnImm (c : Cond) (rn : Reg) (sbz rotate : BitVec 4) (imm8 : BitVec 8) (s : State) : Result :=
  onCondition (.cmnImm c rn sbz rotate imm8) c s (testResult s (aluAdd (s.x rn) (s.immediate rotate imm8).value))

/-- ORR, immediate (R342, R139). -/
def execOrrImm (c : Cond) (sf : Bool) (rn rd : Reg) (rotate : BitVec 4) (imm8 : BitVec 8) (s : State) : Result :=
  onCondition (.orrImm c sf rn rd rotate imm8) c s
    (writeResult s sf rd (aluOrr (s.x rn) (s.immediate rotate imm8) s.cpsr))

/-- MOV, immediate (R343, R139). -/
def execMovImm (c : Cond) (sf : Bool) (sbz : BitVec 4) (rd : Reg) (rotate : BitVec 4) (imm8 : BitVec 8) (s : State) :
    Result :=
  onCondition (.movImm c sf sbz rd rotate imm8) c s (writeResult s sf rd (aluMov (s.immediate rotate imm8) s.cpsr))

/-- BIC, immediate (R344, R139). -/
def execBicImm (c : Cond) (sf : Bool) (rn rd : Reg) (rotate : BitVec 4) (imm8 : BitVec 8) (s : State) : Result :=
  onCondition (.bicImm c sf rn rd rotate imm8) c s
    (writeResult s sf rd (aluBic (s.x rn) (s.immediate rotate imm8) s.cpsr))

/-- MVN, immediate (R345, R139). -/
def execMvnImm (c : Cond) (sf : Bool) (sbz : BitVec 4) (rd : Reg) (rotate : BitVec 4) (imm8 : BitVec 8) (s : State) :
    Result :=
  onCondition (.mvnImm c sf sbz rd rotate imm8) c s (writeResult s sf rd (aluMvn (s.immediate rotate imm8) s.cpsr))

end Sys2Proof.Machine
end

