-- ==== Sys2Proof/Machine/ExtraLoadStore.lean ====
section
/-! DEFINITION. Halfword, signed and doubleword loads and stores (R290 to R297). -/

namespace Sys2Proof.Machine

/-- The address of a transfer with a register offset (R290, R291). -/
def State.extraReg (s : State) (p u w : Bool) (rn rm : Reg) : Address := indexed p u w rn (s.x rn) (s.x rm)

/-- The address of a transfer with an 8-bit immediate offset (R290, R291). -/
def State.extraImm (s : State) (p u w : Bool) (rn : Reg) (offHi offLo : BitVec 4) : Address :=
  indexed p u w rn (s.x rn) (splitOffset offHi offLo)

/-- Is a doubleword's address misaligned (R68)? -/
def misalignedDouble (a : Word) : Bool := a.extractLsb' 0 3 != 0

/-- Load two words (R296): both are read before a register is written (D6; log entry 24). -/
def loadDouble (s : State) (m : Address) (rd : Reg) : Result :=
  if misalignedDouble m.start then misaligned s m 8 (.refused .unpredictableAlignment)
  else
    (s.readBlock s.privileged m.start 2).andThen s m.writeBack fun vs =>
      advance ((s.writeBack m.writeBack).setXs ([rd, rd + 1].zip vs))

/-- Store two words (R297); if the second access aborts, the first word stays stored (R556). -/
def storeDouble (s : State) (m : Address) (rd : Reg) : Result :=
  if misalignedDouble m.start then misaligned s m 8 (.refused .unpredictableAlignment)
  else finishBlock (s.writeBlock s.privileged m.start [s.x rd, s.x (rd + 1)]) m.writeBack

/-- STRH, register offset (R292, R119). -/
def execStrhReg (c : Cond) (p u w : Bool) (rn rd : Reg) (sbz : BitVec 4) (rm : Reg) (s : State) : Result :=
  onCondition (.strhReg c p u w rn rd sbz rm) c s (storeHalf s (s.extraReg p u w rn rm) (s.x rd))

/-- LDRH, register offset (R293, R119). -/
def execLdrhReg (c : Cond) (p u w : Bool) (rn rd : Reg) (sbz : BitVec 4) (rm : Reg) (s : State) : Result :=
  onCondition (.ldrhReg c p u w rn rd sbz rm) c s (loadHalf s (s.extraReg p u w rn rm) rd (BitVec.setWidth 32))

/-- LDRSB, register offset (R294, R120). -/
def execLdrsbReg (c : Cond) (p u w : Bool) (rn rd : Reg) (sbz : BitVec 4) (rm : Reg) (s : State) : Result :=
  onCondition (.ldrsbReg c p u w rn rd sbz rm) c s (loadSignedByte s (s.extraReg p u w rn rm) rd)

/-- LDRSH, register offset (R295, R120). -/
def execLdrshReg (c : Cond) (p u w : Bool) (rn rd : Reg) (sbz : BitVec 4) (rm : Reg) (s : State) : Result :=
  onCondition (.ldrshReg c p u w rn rd sbz rm) c s (loadHalf s (s.extraReg p u w rn rm) rd (BitVec.signExtend 32))

/-- STRH, immediate offset (R292, R122). -/
def execStrhImm (c : Cond) (p u w : Bool) (rn rd : Reg) (offHi offLo : BitVec 4) (s : State) : Result :=
  onCondition (.strhImm c p u w rn rd offHi offLo) c s (storeHalf s (s.extraImm p u w rn offHi offLo) (s.x rd))

/-- LDRH, immediate offset (R293, R122). -/
def execLdrhImm (c : Cond) (p u w : Bool) (rn rd : Reg) (offHi offLo : BitVec 4) (s : State) : Result :=
  onCondition (.ldrhImm c p u w rn rd offHi offLo) c s
    (loadHalf s (s.extraImm p u w rn offHi offLo) rd (BitVec.setWidth 32))

/-- LDRD, register offset (R296, R123). -/
def execLdrdReg (c : Cond) (p u w : Bool) (rn rd : Reg) (sbz : BitVec 4) (rm : Reg) (s : State) : Result :=
  onCondition (.ldrdReg c p u w rn rd sbz rm) c s (loadDouble s (s.extraReg p u w rn rm) rd)

/-- STRD, register offset (R297, R123). -/
def execStrdReg (c : Cond) (p u w : Bool) (rn rd : Reg) (sbz : BitVec 4) (rm : Reg) (s : State) : Result :=
  onCondition (.strdReg c p u w rn rd sbz rm) c s (storeDouble s (s.extraReg p u w rn rm) rd)

/-- LDRD, immediate offset (R296, R124). -/
def execLdrdImm (c : Cond) (p u w : Bool) (rn rd : Reg) (offHi offLo : BitVec 4) (s : State) : Result :=
  onCondition (.ldrdImm c p u w rn rd offHi offLo) c s (loadDouble s (s.extraImm p u w rn offHi offLo) rd)

/-- STRD, immediate offset (R297, R124). -/
def execStrdImm (c : Cond) (p u w : Bool) (rn rd : Reg) (offHi offLo : BitVec 4) (s : State) : Result :=
  onCondition (.strdImm c p u w rn rd offHi offLo) c s (storeDouble s (s.extraImm p u w rn offHi offLo) rd)

/-- LDRSB, immediate offset (R294, R125). -/
def execLdrsbImm (c : Cond) (p u w : Bool) (rn rd : Reg) (offHi offLo : BitVec 4) (s : State) : Result :=
  onCondition (.ldrsbImm c p u w rn rd offHi offLo) c s (loadSignedByte s (s.extraImm p u w rn offHi offLo) rd)

/-- LDRSH, immediate offset (R295, R125). -/
def execLdrshImm (c : Cond) (p u w : Bool) (rn rd : Reg) (offHi offLo : BitVec 4) (s : State) : Result :=
  onCondition (.ldrshImm c p u w rn rd offHi offLo) c s
    (loadHalf s (s.extraImm p u w rn offHi offLo) rd (BitVec.signExtend 32))

end Sys2Proof.Machine
end

