-- ==== Sys2Proof/Machine/LoadStore.lean ====
section
/-! DEFINITION. Word and byte loads and stores (R370 to R382). The T forms are post-indexed and present an unprivileged access
(R78, R371). -/

namespace Sys2Proof.Machine

/-- The address of a transfer with a scaled register offset (R371, R372). -/
def State.wordReg (s : State) (p u w : Bool) (rn : Reg) (n : BitVec 5) (sh : Shift) (rm : Reg) : Address :=
  indexed p u w rn (s.x rn) (index sh (s.x rm) n (Psr.c s.cpsr))

/-- The address of a transfer with a 12-bit immediate offset (R370, R371). -/
def State.wordImm (s : State) (p u w : Bool) (rn : Reg) (imm12 : BitVec 12) : Address :=
  indexed p u w rn (s.x rn) (imm12.setWidth 32)

/-- STRT, register offset (R381, R136). -/
def execStrtReg (c : Cond) (u : Bool) (rn rd : Reg) (shiftImm : BitVec 5) (sh : Shift) (rm : Reg) (s : State) :
    Result :=
  onCondition (.strtReg c u rn rd shiftImm sh rm) c s
    (storeWord s false (s.wordReg false u true rn shiftImm sh rm) (s.storedValue rd))

/-- LDRT, register offset (R379, R136). -/
def execLdrtReg (c : Cond) (u : Bool) (rn rd : Reg) (shiftImm : BitVec 5) (sh : Shift) (rm : Reg) (s : State) :
    Result :=
  onCondition (.ldrtReg c u rn rd shiftImm sh rm) c s (loadWord s false (s.wordReg false u true rn shiftImm sh rm) rd)

/-- STRBT, register offset (R382, R136). -/
def execStrbtReg (c : Cond) (u : Bool) (rn rd : Reg) (shiftImm : BitVec 5) (sh : Shift) (rm : Reg) (s : State) :
    Result :=
  onCondition (.strbtReg c u rn rd shiftImm sh rm) c s
    (storeByte s false (s.wordReg false u true rn shiftImm sh rm) (s.x rd))

/-- LDRBT, register offset (R380, R136). -/
def execLdrbtReg (c : Cond) (u : Bool) (rn rd : Reg) (shiftImm : BitVec 5) (sh : Shift) (rm : Reg) (s : State) :
    Result :=
  onCondition (.ldrbtReg c u rn rd shiftImm sh rm) c s
    (loadByte s false (s.wordReg false u true rn shiftImm sh rm) rd)

/-- STR, register offset (R377, R136). -/
def execStrReg (c : Cond) (p u w : Bool) (rn rd : Reg) (shiftImm : BitVec 5) (sh : Shift) (rm : Reg) (s : State) :
    Result :=
  onCondition (.strReg c p u w rn rd shiftImm sh rm) c s
    (storeWord s s.privileged (s.wordReg p u w rn shiftImm sh rm) (s.storedValue rd))

/-- LDR, register offset (R375, R136). -/
def execLdrReg (c : Cond) (p u w : Bool) (rn rd : Reg) (shiftImm : BitVec 5) (sh : Shift) (rm : Reg) (s : State) :
    Result :=
  onCondition (.ldrReg c p u w rn rd shiftImm sh rm) c s
    (loadWord s s.privileged (s.wordReg p u w rn shiftImm sh rm) rd)

/-- STRB, register offset (R378, R136). -/
def execStrbReg (c : Cond) (p u w : Bool) (rn rd : Reg) (shiftImm : BitVec 5) (sh : Shift) (rm : Reg) (s : State) :
    Result :=
  onCondition (.strbReg c p u w rn rd shiftImm sh rm) c s
    (storeByte s s.privileged (s.wordReg p u w rn shiftImm sh rm) (s.x rd))

/-- LDRB, register offset (R376, R136). -/
def execLdrbReg (c : Cond) (p u w : Bool) (rn rd : Reg) (shiftImm : BitVec 5) (sh : Shift) (rm : Reg) (s : State) :
    Result :=
  onCondition (.ldrbReg c p u w rn rd shiftImm sh rm) c s
    (loadByte s s.privileged (s.wordReg p u w rn shiftImm sh rm) rd)

/-- STRT, immediate offset (R381, R140). -/
def execStrtImm (c : Cond) (u : Bool) (rn rd : Reg) (imm12 : BitVec 12) (s : State) : Result :=
  onCondition (.strtImm c u rn rd imm12) c s (storeWord s false (s.wordImm false u true rn imm12) (s.storedValue rd))

/-- LDRT, immediate offset (R379, R140). -/
def execLdrtImm (c : Cond) (u : Bool) (rn rd : Reg) (imm12 : BitVec 12) (s : State) : Result :=
  onCondition (.ldrtImm c u rn rd imm12) c s (loadWord s false (s.wordImm false u true rn imm12) rd)

/-- STRBT, immediate offset (R382, R140). -/
def execStrbtImm (c : Cond) (u : Bool) (rn rd : Reg) (imm12 : BitVec 12) (s : State) : Result :=
  onCondition (.strbtImm c u rn rd imm12) c s (storeByte s false (s.wordImm false u true rn imm12) (s.x rd))

/-- LDRBT, immediate offset (R380, R140). -/
def execLdrbtImm (c : Cond) (u : Bool) (rn rd : Reg) (imm12 : BitVec 12) (s : State) : Result :=
  onCondition (.ldrbtImm c u rn rd imm12) c s (loadByte s false (s.wordImm false u true rn imm12) rd)

/-- STR, immediate offset (R377, R140). -/
def execStrImm (c : Cond) (p u w : Bool) (rn rd : Reg) (imm12 : BitVec 12) (s : State) : Result :=
  onCondition (.strImm c p u w rn rd imm12) c s
    (storeWord s s.privileged (s.wordImm p u w rn imm12) (s.storedValue rd))

/-- LDR, immediate offset (R375, R140). -/
def execLdrImm (c : Cond) (p u w : Bool) (rn rd : Reg) (imm12 : BitVec 12) (s : State) : Result :=
  onCondition (.ldrImm c p u w rn rd imm12) c s (loadWord s s.privileged (s.wordImm p u w rn imm12) rd)

/-- STRB, immediate offset (R378, R140). -/
def execStrbImm (c : Cond) (p u w : Bool) (rn rd : Reg) (imm12 : BitVec 12) (s : State) : Result :=
  onCondition (.strbImm c p u w rn rd imm12) c s (storeByte s s.privileged (s.wordImm p u w rn imm12) (s.x rd))

/-- LDRB, immediate offset (R376, R140). -/
def execLdrbImm (c : Cond) (p u w : Bool) (rn rd : Reg) (imm12 : BitVec 12) (s : State) : Result :=
  onCondition (.ldrbImm c p u w rn rd imm12) c s (loadByte s s.privileged (s.wordImm p u w rn imm12) rd)

end Sys2Proof.Machine
end

