-- ==== Sys2Proof/Machine/Misc.lean ====
section
/-! DEFINITION. Preload, count leading zeros, breakpoint, branch and exchange (R200 to R205). Preload is a hint and does nothing
(D16; log entry 28); a breakpoint always takes the Prefetch Abort exception (R555, D17; log entry 25). -/

namespace Sys2Proof.Machine

/-- The number of leading zeros (R201). -/
def countLeadingZeros (v : Word) : Word := if v = 0 then 32 else BitVec.ofNat 32 (31 - v.toNat.log2)

/-- PLD, immediate offset (R200, R110). -/
def execPldImm (u : Bool) (rn : Reg) (imm12 : BitVec 12) (s : State) : Result :=
  always (.pldImm u rn imm12) (advance s)

/-- PLD, register offset (R200, R110). -/
def execPldReg (u : Bool) (rn : Reg) (shiftImm : BitVec 5) (sh : Shift) (rm : Reg) (s : State) : Result :=
  always (.pldReg u rn shiftImm sh rm) (advance s)

/-- CLZ (R201, R111). -/
def execClz (c : Cond) (sbo1 : BitVec 4) (rd : Reg) (sbo2 : BitVec 4) (rm : Reg) (s : State) : Result :=
  onCondition (.clz c sbo1 rd sbo2 rm) c s (advance (s.setX rd (countLeadingZeros (s.x rm))))

/-- BKPT (R203, R112). -/
def execBkpt (c : Cond) (immHi : BitVec 12) (immLo : BitVec 4) (s : State) : Result :=
  onCondition (.bkpt c immHi immLo) c s (.next (takeException .prefetchAbort s))

/-- BX (R204, R113). -/
def execBx (c : Cond) (sbo : BitVec 12) (rm : Reg) (s : State) : Result :=
  onCondition (.bx c sbo rm) c s (branchExchange s (s.x rm))

/-- BLX (register) (R205, R113). -/
def execBlxReg (c : Cond) (sbo : BitVec 12) (rm : Reg) (s : State) : Result :=
  onCondition (.blxReg c sbo rm) c s (branchExchange (s.setX 14 (s.pc + 4)) (s.x rm))

end Sys2Proof.Machine
end

