-- ==== Sys2Proof/Machine/SwapSaturating.lean ====
section
/-! DEFINITION. Swap (R221, R222) and the saturating additions and subtractions (R224 to R228). -/

namespace Sys2Proof.Machine

/-- Finish a swap: the destination is written after the store; an aborted store leaves it (R221). -/
def finishSwap (written : Option State) (s : State) (rd : Reg) (old : Word) : Result :=
  match written with
  | some s' => advance (s'.setX rd old)
  | none => dataAbort s none

/-- Swap a word: the load rotates as LDR does, the store ignores the low address bits (R68, R221). -/
def swapWord (s : State) (rn rd rm : Reg) : Result :=
  let a := s.x rn
  if lowTwo a ≠ 0 ∧ s.settings.alignFault then dataAbort s none
  else
    (s.readWord s.privileged (alignWord a)).andThen s none fun w =>
      finishSwap (s.writeWord s.privileged (alignWord a) (s.x rm)) s rd (ror w (8 * (lowTwo a).toNat))

/-- Swap a byte (R222). -/
def swapByte (s : State) (rn rd rm : Reg) : Result :=
  (s.readByte s.privileged (s.x rn)).andThen s none fun b =>
    finishSwap (s.writeByte s.privileged (s.x rn) ((s.x rm).setWidth 8)) s rd (b.setWidth 32)

/-- Set the sticky Q flag if `sat` holds, else leave it (R224). -/
def State.stickyQ (s : State) (sat : Bool) : State := if sat then s.setCpsr (Psr.withQ s.cpsr) else s

/-- Write a saturated result; Q is set if it, or the doubling before it, saturates (R225 to R228). -/
def writeSat (s : State) (rd : Reg) (i : Int) (before : Bool) : Result :=
  advance ((s.setX rd (signedSat32 i)).stickyQ (before || outside32 i))

/-- `SignedSat32(2 * sint(v))` (R227). -/
def doubled (v : Word) : Word := signedSat32 (2 * v.toInt)

/-- SWP (R221, R114). -/
def execSwp (c : Cond) (rn rd : Reg) (sbz : BitVec 4) (rm : Reg) (s : State) : Result :=
  onCondition (.swp c rn rd sbz rm) c s (swapWord s rn rd rm)

/-- SWPB (R222, R114). -/
def execSwpb (c : Cond) (rn rd : Reg) (sbz : BitVec 4) (rm : Reg) (s : State) : Result :=
  onCondition (.swpb c rn rd sbz rm) c s (swapByte s rn rd rm)

/-- QADD (R225, R115). -/
def execQadd (c : Cond) (rn rd : Reg) (sbz : BitVec 4) (rm : Reg) (s : State) : Result :=
  onCondition (.qadd c rn rd sbz rm) c s (writeSat s rd ((s.x rm).toInt + (s.x rn).toInt) false)

/-- QSUB (R226, R115). -/
def execQsub (c : Cond) (rn rd : Reg) (sbz : BitVec 4) (rm : Reg) (s : State) : Result :=
  onCondition (.qsub c rn rd sbz rm) c s (writeSat s rd ((s.x rm).toInt - (s.x rn).toInt) false)

/-- QDADD (R227, R115). -/
def execQdadd (c : Cond) (rn rd : Reg) (sbz : BitVec 4) (rm : Reg) (s : State) : Result :=
  onCondition (.qdadd c rn rd sbz rm) c s
    (writeSat s rd ((s.x rm).toInt + (doubled (s.x rn)).toInt) (outside32 (2 * (s.x rn).toInt)))

/-- QDSUB (R228, R115). -/
def execQdsub (c : Cond) (rn rd : Reg) (sbz : BitVec 4) (rm : Reg) (s : State) : Result :=
  onCondition (.qdsub c rn rd sbz rm) c s
    (writeSat s rd ((s.x rm).toInt - (doubled (s.x rn)).toInt) (outside32 (2 * (s.x rn).toInt)))

end Sys2Proof.Machine
end

