-- ==== Sys2Proof/Machine/Multiply.lean ====
section
/-! DEFINITION. The multiplies (R240 to R254). -/

namespace Sys2Proof.Machine

/-- The 64-bit value of a register pair (R243). -/
def State.pair (s : State) (hi lo : Reg) : BitVec 64 := s.x hi ++ s.x lo

/-- Write a 64-bit value to a register pair. -/
def State.setPair (s : State) (hi lo : Reg) (p : BitVec 64) : State :=
  (s.setX hi (p.extractLsb' 32 32)).setX lo (p.extractLsb' 0 32)

/-- `uint(a) * uint(b)` as 64 bits (R247). -/
def unsignedProduct (a b : Word) : BitVec 64 := BitVec.ofNat 64 (a.toNat * b.toNat)

/-- `sint(a) * sint(b)` as 64 bits (R247). -/
def signedProduct (a b : Word) : BitVec 64 := BitVec.ofInt 64 (a.toInt * b.toInt)

/-- Finish MUL or MLA: N and Z from the result if S = 1, C and V kept (R247). -/
def writeProduct (s : State) (sf : Bool) (rd : Reg) (r : Word) : Result :=
  let s' := s.setX rd r
  advance (if sf then s'.setCpsr (nzFlags r s.cpsr) else s')

/-- Finish a long multiply: N and Z from the 64-bit result if S = 1, C and V kept (R247). -/
def writeLong (s : State) (sf : Bool) (rdHi rdLo : Reg) (p : BitVec 64) : Result :=
  let s' := s.setPair rdHi rdLo p
  advance (if sf then s'.setCpsr (nzFlags p s.cpsr) else s')

/-- The top or the bottom half of a register as a signed number (R248). -/
def halfOf (v : Word) (top : Bool) : Int := (v.extractLsb' (if top then 16 else 0) 16).toInt

/-- Bits [47:16] of the 48-bit product: the floor of the product over 2^16 (R251). -/
def wideProduct (v : Word) (half : Int) : Int := v.toInt * half / 2 ^ 16

/-- Write an accumulated sum modulo 2^32; Q is set if the sum overflows (R250, R251). -/
def writeAccumulated (s : State) (rd : Reg) (i : Int) : Result :=
  advance ((s.setX rd (BitVec.ofInt 32 i)).stickyQ (outside32 i))

/-- MUL (R240, R116). -/
def execMul (c : Cond) (sf : Bool) (rd : Reg) (sbz : BitVec 4) (rs rm : Reg) (s : State) : Result :=
  onCondition (.mul c sf rd sbz rs rm) c s (writeProduct s sf rd (s.x rm * s.x rs))

/-- MLA (R241, R116). -/
def execMla (c : Cond) (sf : Bool) (rd rn rs rm : Reg) (s : State) : Result :=
  onCondition (.mla c sf rd rn rs rm) c s (writeProduct s sf rd (s.x rm * s.x rs + s.x rn))

/-- UMULL (R242, R117). -/
def execUmull (c : Cond) (sf : Bool) (rdHi rdLo rs rm : Reg) (s : State) : Result :=
  onCondition (.umull c sf rdHi rdLo rs rm) c s (writeLong s sf rdHi rdLo (unsignedProduct (s.x rm) (s.x rs)))

/-- UMLAL (R243, R117). -/
def execUmlal (c : Cond) (sf : Bool) (rdHi rdLo rs rm : Reg) (s : State) : Result :=
  onCondition (.umlal c sf rdHi rdLo rs rm) c s
    (writeLong s sf rdHi rdLo (unsignedProduct (s.x rm) (s.x rs) + s.pair rdHi rdLo))

/-- SMULL (R244, R117). -/
def execSmull (c : Cond) (sf : Bool) (rdHi rdLo rs rm : Reg) (s : State) : Result :=
  onCondition (.smull c sf rdHi rdLo rs rm) c s (writeLong s sf rdHi rdLo (signedProduct (s.x rm) (s.x rs)))

/-- SMLAL (R245, R117). -/
def execSmlal (c : Cond) (sf : Bool) (rdHi rdLo rs rm : Reg) (s : State) : Result :=
  onCondition (.smlal c sf rdHi rdLo rs rm) c s
    (writeLong s sf rdHi rdLo (signedProduct (s.x rm) (s.x rs) + s.pair rdHi rdLo))

/-- SMLA<x><y> (R250, R121); `x` is bit 5, `y` bit 6. -/
def execSmlaxy (c : Cond) (rd rn rs : Reg) (y x : Bool) (rm : Reg) (s : State) : Result :=
  onCondition (.smlaxy c rd rn rs y x rm) c s
    (writeAccumulated s rd (halfOf (s.x rm) x * halfOf (s.x rs) y + (s.x rn).toInt))

/-- SMLAW<y> (R251, R121). -/
def execSmlawy (c : Cond) (rd rn rs : Reg) (y : Bool) (rm : Reg) (s : State) : Result :=
  onCondition (.smlawy c rd rn rs y rm) c s
    (writeAccumulated s rd (wideProduct (s.x rm) (halfOf (s.x rs) y) + (s.x rn).toInt))

/-- SMULW<y> (R252, R121). -/
def execSmulwy (c : Cond) (rd : Reg) (sbz : BitVec 4) (rs : Reg) (y : Bool) (rm : Reg) (s : State) : Result :=
  onCondition (.smulwy c rd sbz rs y rm) c s
    (advance (s.setX rd (BitVec.ofInt 32 (wideProduct (s.x rm) (halfOf (s.x rs) y)))))

/-- SMLAL<x><y> (R253, R121). -/
def execSmlalxy (c : Cond) (rdHi rdLo rs : Reg) (y x : Bool) (rm : Reg) (s : State) : Result :=
  onCondition (.smlalxy c rdHi rdLo rs y x rm) c s
    (advance (s.setPair rdHi rdLo (s.pair rdHi rdLo + BitVec.ofInt 64 (halfOf (s.x rm) x * halfOf (s.x rs) y))))

/-- SMUL<x><y> (R254, R121). -/
def execSmulxy (c : Cond) (rd : Reg) (sbz : BitVec 4) (rs : Reg) (y x : Bool) (rm : Reg) (s : State) : Result :=
  onCondition (.smulxy c rd sbz rs y x rm) c s
    (advance (s.setX rd (BitVec.ofInt 32 (halfOf (s.x rm) x * halfOf (s.x rs) y))))

end Sys2Proof.Machine
end

