-- ==== Sys2Proof/Machine/Status.lean ====
section
/-! DEFINITION. Status register access: MRS and MSR (R270 to R273). -/

namespace Sys2Proof.Machine

/-- Read the CPSR, or the SPSR of the current mode (R270). -/
def readPsr (s : State) (r : Bool) (rd : Reg) : Result :=
  if r then
    match s.spsr? with
    | some p => advance (s.setX rd p)
    | none => .refused .noSpsr
  else advance (s.setX rd s.cpsr)

/-- `byte_mask` (R273). -/
def byteMask (mask : BitVec 4) : Word :=
  (if mask.getLsbD 3 then 0xFF#8 else 0#8) ++ (if mask.getLsbD 2 then 0xFF#8 else 0#8) ++
    (if mask.getLsbD 1 then 0xFF#8 else 0#8) ++ (if mask.getLsbD 0 then 0xFF#8 else 0#8)

/-- `UnallocMask` (R273). -/
def unallocMask : Word := 0x07FFFF00

/-- `UserMask` (R273). -/
def userMask : Word := 0xF8000000

/-- `PrivMask` (R273 (g)). -/
def privMask : Word := 0x000000DF

/-- `StateMask` (R273). -/
def stateMask : Word := 0x00000020

/-- A status register with the bits of `m` taken from the operand. -/
def merge (p operand m : Word) : Word := (p &&& ~~~m) ||| (operand &&& m)

/-- Would the write put a mode field that is no mode into the CPSR (R273 (b))? -/
def illegalModeWrite (mask : BitVec 4) (operand : Word) : Bool :=
  mask.getLsbD 0 && (Mode.ofBits? (Psr.m operand)).isNone

/-- The write of MSR (R273). The SPSR takes any mode field; only the CPSR must hold a mode (log entry 17). -/
def writePsr (s : State) (r : Bool) (mask : BitVec 4) (operand : Word) : Result :=
  if operand &&& unallocMask ≠ 0 then .refused .reservedPsrBits
  else if r then
    match s.spsr? with
    | some p => advance (s.setSpsr (merge p operand (byteMask mask &&& (userMask ||| privMask ||| stateMask))))
    | none => .refused .noSpsr
  else if s.privileged then
    if operand &&& stateMask ≠ 0 then .refused .msrSetsT
    else if illegalModeWrite mask operand then .refused .illegalMode
    else advance (s.setCpsr (merge s.cpsr operand (byteMask mask &&& (userMask ||| privMask))))
  else advance (s.setCpsr (merge s.cpsr operand (byteMask mask &&& userMask)))

/-- MSR, register form (R272, R118). -/
def execMsrReg (c : Cond) (r : Bool) (mask sbo sbzHi : BitVec 4) (sbzLo : BitVec 2) (rm : Reg) (s : State) : Result :=
  onCondition (.msrReg c r mask sbo sbzHi sbzLo rm) c s (writePsr s r mask (s.x rm))

/-- MRS (R270, R127). -/
def execMrs (c : Cond) (r : Bool) (sbo : BitVec 4) (rd : Reg) (sbz : BitVec 12) (s : State) : Result :=
  onCondition (.mrs c r sbo rd sbz) c s (readPsr s r rd)

/-- MSR, immediate form (R271, R128). -/
def execMsrImm (c : Cond) (r : Bool) (mask sbo rotate : BitVec 4) (imm8 : BitVec 8) (s : State) : Result :=
  onCondition (.msrImm c r mask sbo rotate imm8) c s (writePsr s r mask (rotatedImmediate rotate imm8))

end Sys2Proof.Machine
end

