-- ==== Sys2Proof/Machine/ThumbAlu.lean ====
section
/-! DEFINITION. The Thumb instructions that compute in registers (R463 to R475, R477, R480 to R497, R514, R515). -/

namespace Sys2Proof.Machine

/-- Write a low register and all four flags. -/
def setFlags (s : State) (rd : LowReg) (o : Alu) : Result :=
  advance ((s.setX (lowReg rd) o.result).setCpsr (o.flags s.cpsr))

/-- Write a low register and N and Z; C and V stay (R529). -/
def setNZ (s : State) (rd : LowReg) (r : Word) : Result :=
  advance ((s.setX (lowReg rd) r).setCpsr (nzFlags r s.cpsr))

/-- Write all four flags and no register. -/
def compareFlags (s : State) (o : Alu) : Result := advance (s.setCpsr (o.flags s.cpsr))

/-- Write a register of any number and no flag; number 15 branches and keeps T (R474, R477). -/
def writeHigh (s : State) (rd : Reg) (v : Word) : Result := if rd = 15 then branchThumb s v else advance (s.setX rd v)

/-- Thumb ADD (3) (R466). -/
def execTAdd3 (rm rn rd : LowReg) (s : State) : Result :=
  always (.tAdd3 rm rn rd) (setFlags s rd (aluAdd (s.x (lowReg rn)) (s.x (lowReg rm))))

/-- Thumb SUB (3) (R467). -/
def execTSub3 (rm rn rd : LowReg) (s : State) : Result :=
  always (.tSub3 rm rn rd) (setFlags s rd (aluSub (s.x (lowReg rn)) (s.x (lowReg rm))))

/-- Thumb ADD (1) (R468). -/
def execTAdd1 (imm3 : BitVec 3) (rn rd : LowReg) (s : State) : Result :=
  always (.tAdd1 imm3 rn rd) (setFlags s rd (aluAdd (s.x (lowReg rn)) (imm3.setWidth 32)))

/-- Thumb SUB (1) (R469). -/
def execTSub1 (imm3 : BitVec 3) (rn rd : LowReg) (s : State) : Result :=
  always (.tSub1 imm3 rn rd) (setFlags s rd (aluSub (s.x (lowReg rn)) (imm3.setWidth 32)))

/-- Thumb LSL (1) (R463). -/
def execTLsl1 (imm5 : BitVec 5) (rm rd : LowReg) (s : State) : Result :=
  always (.tLsl1 imm5 rm rd) (setFlags s rd (aluMov (shiftByImm .lsl (s.x (lowReg rm)) imm5 (Psr.c s.cpsr)) s.cpsr))

/-- Thumb LSR (1) (R464). -/
def execTLsr1 (imm5 : BitVec 5) (rm rd : LowReg) (s : State) : Result :=
  always (.tLsr1 imm5 rm rd) (setFlags s rd (aluMov (shiftByImm .lsr (s.x (lowReg rm)) imm5 (Psr.c s.cpsr)) s.cpsr))

/-- Thumb ASR (1) (R465). -/
def execTAsr1 (imm5 : BitVec 5) (rm rd : LowReg) (s : State) : Result :=
  always (.tAsr1 imm5 rm rd) (setFlags s rd (aluMov (shiftByImm .asr (s.x (lowReg rm)) imm5 (Psr.c s.cpsr)) s.cpsr))

/-- Thumb MOV (1) (R470). -/
def execTMov1 (rd : LowReg) (imm8 : BitVec 8) (s : State) : Result :=
  always (.tMov1 rd imm8) (setNZ s rd (imm8.setWidth 32))

/-- Thumb CMP (1) (R471). -/
def execTCmp1 (rn : LowReg) (imm8 : BitVec 8) (s : State) : Result :=
  always (.tCmp1 rn imm8) (compareFlags s (aluSub (s.x (lowReg rn)) (imm8.setWidth 32)))

/-- Thumb ADD (2) (R472). -/
def execTAdd2 (rd : LowReg) (imm8 : BitVec 8) (s : State) : Result :=
  always (.tAdd2 rd imm8) (setFlags s rd (aluAdd (s.x (lowReg rd)) (imm8.setWidth 32)))

/-- Thumb SUB (2) (R473). -/
def execTSub2 (rd : LowReg) (imm8 : BitVec 8) (s : State) : Result :=
  always (.tSub2 rd imm8) (setFlags s rd (aluSub (s.x (lowReg rd)) (imm8.setWidth 32)))

/-- Thumb AND (R482, R531). -/
def execTAnd (rm rd : LowReg) (s : State) : Result :=
  always (.tAnd rm rd) (setNZ s rd (s.x (lowReg rd) &&& s.x (lowReg rm)))

/-- Thumb EOR (R483, R531). -/
def execTEor (rm rd : LowReg) (s : State) : Result :=
  always (.tEor rm rd) (setNZ s rd (s.x (lowReg rd) ^^^ s.x (lowReg rm)))

/-- Thumb LSL (2) (R484, R531). -/
def execTLsl2 (rm rd : LowReg) (s : State) : Result :=
  always (.tLsl2 rm rd)
    (setFlags s rd
      (aluMov (shiftByReg .lsl (s.x (lowReg rd)) ((s.x (lowReg rm)).setWidth 8) (Psr.c s.cpsr)) s.cpsr))

/-- Thumb LSR (2) (R485, R531). -/
def execTLsr2 (rm rd : LowReg) (s : State) : Result :=
  always (.tLsr2 rm rd)
    (setFlags s rd
      (aluMov (shiftByReg .lsr (s.x (lowReg rd)) ((s.x (lowReg rm)).setWidth 8) (Psr.c s.cpsr)) s.cpsr))

/-- Thumb ASR (2) (R486, R531). -/
def execTAsr2 (rm rd : LowReg) (s : State) : Result :=
  always (.tAsr2 rm rd)
    (setFlags s rd
      (aluMov (shiftByReg .asr (s.x (lowReg rd)) ((s.x (lowReg rm)).setWidth 8) (Psr.c s.cpsr)) s.cpsr))

/-- Thumb ADC (R487, R531). -/
def execTAdc (rm rd : LowReg) (s : State) : Result :=
  always (.tAdc rm rd) (setFlags s rd (aluAdc (s.x (lowReg rd)) (s.x (lowReg rm)) s.cpsr))

/-- Thumb SBC (R488, R531). -/
def execTSbc (rm rd : LowReg) (s : State) : Result :=
  always (.tSbc rm rd) (setFlags s rd (aluSbc (s.x (lowReg rd)) (s.x (lowReg rm)) s.cpsr))

/-- Thumb ROR (R489, R531). -/
def execTRor (rm rd : LowReg) (s : State) : Result :=
  always (.tRor rm rd)
    (setFlags s rd
      (aluMov (shiftByReg .ror (s.x (lowReg rd)) ((s.x (lowReg rm)).setWidth 8) (Psr.c s.cpsr)) s.cpsr))

/-- Thumb TST (R490, R531). -/
def execTTst (rm rd : LowReg) (s : State) : Result :=
  always (.tTst rm rd) (advance (s.setCpsr (nzFlags (s.x (lowReg rd) &&& s.x (lowReg rm)) s.cpsr)))

/-- Thumb NEG (R491, R531). -/
def execTNeg (rm rd : LowReg) (s : State) : Result :=
  always (.tNeg rm rd) (setFlags s rd (aluSub 0 (s.x (lowReg rm))))

/-- Thumb CMP (2) (R492, R531). -/
def execTCmp2 (rm rd : LowReg) (s : State) : Result :=
  always (.tCmp2 rm rd) (compareFlags s (aluSub (s.x (lowReg rd)) (s.x (lowReg rm))))

/-- Thumb CMN (R493, R531). -/
def execTCmn (rm rd : LowReg) (s : State) : Result :=
  always (.tCmn rm rd) (compareFlags s (aluAdd (s.x (lowReg rd)) (s.x (lowReg rm))))

/-- Thumb ORR (R494, R531). -/
def execTOrr (rm rd : LowReg) (s : State) : Result :=
  always (.tOrr rm rd) (setNZ s rd (s.x (lowReg rd) ||| s.x (lowReg rm)))

/-- Thumb MUL (R495, R531). R495 names no restriction, so it runs with Rd = Rm too: the model's reading, log entry 31. -/
def execTMul (rm rd : LowReg) (s : State) : Result :=
  always (.tMul rm rd) (setNZ s rd (s.x (lowReg rm) * s.x (lowReg rd)))

/-- Thumb BIC (R496, R531). -/
def execTBic (rm rd : LowReg) (s : State) : Result :=
  always (.tBic rm rd) (setNZ s rd (s.x (lowReg rd) &&& ~~~(s.x (lowReg rm))))

/-- Thumb MVN (R497, R531). -/
def execTMvn (rm rd : LowReg) (s : State) : Result :=
  always (.tMvn rm rd) (setNZ s rd (~~~(s.x (lowReg rm))))

/-- Thumb ADD (4) (R474, R530). -/
def execTAdd4 (h1 h2 : Bool) (rm rd : LowReg) (s : State) : Result :=
  always (.tAdd4 h1 h2 rm rd) (writeHigh s (highReg h1 rd) (s.x (highReg h1 rd) + s.x (highReg h2 rm)))

/-- Thumb CMP (3) (R475, R530). -/
def execTCmp3 (h1 h2 : Bool) (rm rd : LowReg) (s : State) : Result :=
  always (.tCmp3 h1 h2 rm rd) (compareFlags s (aluSub (s.x (highReg h1 rd)) (s.x (highReg h2 rm))))

/-- Thumb MOV (3) (R477, R530). -/
def execTMov3 (h1 h2 : Bool) (rm rd : LowReg) (s : State) : Result :=
  always (.tMov3 h1 h2 rm rd) (writeHigh s (highReg h1 rd) (s.x (highReg h2 rm)))

/-- Thumb ADD (5), address from pc (R481). -/
def execTAdd5 (rd : LowReg) (imm8 : BitVec 8) (s : State) : Result :=
  always (.tAdd5 rd imm8) (advance (s.setX (lowReg rd) (alignWord s.pcRead + (imm8.setWidth 32 <<< 2))))

/-- Thumb ADD (6), address from sp (R480). -/
def execTAdd6 (rd : LowReg) (imm8 : BitVec 8) (s : State) : Result :=
  always (.tAdd6 rd imm8) (advance (s.setX (lowReg rd) (s.x 13 + (imm8.setWidth 32 <<< 2))))

/-- Thumb ADD (7) (R514). -/
def execTAdd7 (imm7 : BitVec 7) (s : State) : Result :=
  always (.tAdd7 imm7) (advance (s.setX 13 (s.x 13 + (imm7.setWidth 32 <<< 2))))

/-- Thumb SUB (4) (R515). -/
def execTSub4 (imm7 : BitVec 7) (s : State) : Result :=
  always (.tSub4 imm7) (advance (s.setX 13 (s.x 13 - (imm7.setWidth 32 <<< 2))))

end Sys2Proof.Machine
end

