-- ==== Sys2Proof/Machine/ThumbBranch.lean ====
section
/-! DEFINITION. The Thumb branches, breakpoint, software interrupt and Undefined halfwords (R478, R479, R518, R521 to R528). -/

namespace Sys2Proof.Machine

/-- Thumb BX (R478). -/
def execTBx (h2 : Bool) (rm : LowReg) (sbz : BitVec 3) (s : State) : Result :=
  always (.tBx h2 rm sbz) (branchExchange s (s.x (highReg h2 rm)))

/-- Thumb BLX (2) (R479). -/
def execTBlx2 (h2 : Bool) (rm : LowReg) (sbz : BitVec 3) (s : State) : Result :=
  always (.tBlx2 h2 rm sbz) (branchExchange (s.setX 14 ((s.pc + 2) ||| 1)) (s.x (highReg h2 rm)))

/-- Thumb BKPT (R518). -/
def execTBkpt (imm8 : BitVec 8) (s : State) : Result :=
  always (.tBkpt imm8) (.next (takeException .prefetchAbort s))

/-- Thumb Undefined: 1011 with another h[11:8] (R528). -/
def execTUndefMisc (op : BitVec 4) (low : BitVec 8) (s : State) : Result :=
  always (.tUndefMisc op low) (undefinedInstruction s)

/-- Thumb Undefined: 1101 1110 (R522). -/
def execTUndefCond (imm8 : BitVec 8) (s : State) : Result :=
  always (.tUndefCond imm8) (undefinedInstruction s)

/-- Thumb SWI (R523). -/
def execTSwi (imm8 : BitVec 8) (s : State) : Result :=
  always (.tSwi imm8) (.next (takeException .softwareInterrupt s))

/-- Thumb B (1), conditional (R521). -/
def execTB1 (c : Cond) (imm8 : BitVec 8) (s : State) : Result :=
  onCondition (.tB1 c imm8) c s (branchTo s (s.branchTarget? (2 * imm8.toInt)))

/-- Thumb B (2) (R524). -/
def execTB2 (imm11 : BitVec 11) (s : State) : Result :=
  always (.tB2 imm11) (branchTo s (s.branchTarget? (2 * imm11.toInt)))

/-- Thumb Undefined: BLX suffix with bit 0 = 1 (R527, R528). -/
def execTUndefBlx (high : BitVec 10) (s : State) : Result :=
  always (.tUndefBlx high) (undefinedInstruction s)

/-- Where the second half of a call starts counting from, as an exact integer. A link that the prefix right before it leaves
(R525: the prefix's pc + 4, displaced by a multiple of 2^12 less than 2^22 either way) counts from there, so that a sum of
the two halves that passes an end of memory is seen though the link has wrapped; any other link counts as it stands (R29;
log entry 12). -/
def State.callBase (s : State) : Int :=
  let d := s.x 14 - (s.pc + 2)
  if d.extractLsb' 0 12 = 0 ∧ -2 ^ 22 ≤ d.toInt ∧ d.toInt < 2 ^ 22 then s.pc.toNat + 2 + d.toInt else (s.x 14).toNat

/-- The target of the second half of a call, unless its calculation passes either end of memory (R29, R526, R527, U9). -/
def State.callTarget? (s : State) (offset : Nat) : Option Word :=
  if 0 ≤ s.callBase + offset ∧ s.callBase + offset < 2 ^ 32 then some (s.x 14 + BitVec.ofNat 32 offset) else none

/-- Thumb BLX (1) suffix (R527); `high` is offset11[10:1]. -/
def execTBlx1Suffix (high : BitVec 10) (s : State) : Result :=
  always (.tBlx1Suffix high)
    (branchTo ((s.setX 14 ((s.pc + 2) ||| 1)).setCpsr (Psr.withT s.cpsr false))
      ((s.callTarget? (4 * high.toNat)).map alignWord))

/-- Thumb BL/BLX prefix (R525). It is no branch, so R29 does not stop it: its sum is modulo 2^32, and a call backwards from
the first 4096 bytes passes address 0 here and comes back in its suffix (log entry 12). -/
def execTBlPrefix (offset11 : BitVec 11) (s : State) : Result :=
  always (.tBlPrefix offset11) (advance (s.setX 14 (s.pcRead + (offset11.signExtend 32 <<< 12))))

/-- Thumb BL suffix (R526); bit 0 of the target is cleared (R26; log entry 12). -/
def execTBlSuffix (offset11 : BitVec 11) (s : State) : Result :=
  always (.tBlSuffix offset11)
    (branchTo (s.setX 14 ((s.pc + 2) ||| 1)) ((s.callTarget? (2 * offset11.toNat)).map alignHalf))

end Sys2Proof.Machine
end

