-- ==== Sys2Proof/Machine/ThumbMemory.lean ====
section
/-! DEFINITION. The Thumb loads and stores (R462, R476, R498 to R513, R516, R517, R519, R520). -/

namespace Sys2Proof.Machine

/-- A Thumb load or store of one word or halfword at a misaligned address that `ALIGN_FAULT` lets by: the value loaded
or stored is UNPREDICTABLE (R462), a free value (log entry 11). -/
def thumbUnaligned (s : State) (a : Word) (size : Nat) (k : Result) : Result :=
  misaligned s { start := a, writeBack := none } size k

/-- Load a free value, unless the memory system aborts the access, which is offered to it at the aligned address
(R462; log entry 11). -/
def loadFree (s : State) (size : Nat) (aligned : Word) (rd : LowReg) : Result :=
  if s.settings.aborts .read s.privileged size aligned then dataAbort s none
  else advance ((s.setX (lowReg rd) s.free).useFree 1)

/-- Eight free bytes: the two free words that come next. -/
def State.freeBytes (s : State) : List Byte :=
  splitWord s.settings.bigend s.free ++ splitWord s.settings.bigend (s.useFree 1).free

/-- Store free values, unless the memory system aborts the access, which is offered to it at the aligned address. R462 does
not say where the store goes: every byte from the aligned address to the last that `size` bytes at `a` have is a free value, so
that a store at either address, or of the bytes there in any order, is among what is allowed (log entry 11). -/
def storeFree (s : State) (size : Nat) (aligned a : Word) : Result :=
  if s.settings.aborts .write s.privileged size aligned then dataAbort s none
  else advance ((s.useFree 2).storeBytes aligned (s.freeBytes.take (size + (a - aligned).toNat)))

/-- Thumb word load (R462, R502, R507, R513). -/
def thumbLoadWord (s : State) (a : Word) (rd : LowReg) : Result :=
  if lowTwo a = 0 then loadWord s s.privileged { start := a, writeBack := none } (lowReg rd)
  else thumbUnaligned s a 4 (loadFree s 4 (alignWord a) rd)

/-- Thumb halfword load (R462, R503, R505, R511). -/
def thumbLoadHalf (s : State) (a : Word) (rd : LowReg) (ext : Half → Word) : Result :=
  if a.getLsbD 0 then thumbUnaligned s a 2 (loadFree s 2 (alignHalf a) rd)
  else loadHalf s { start := a, writeBack := none } (lowReg rd) ext

/-- Thumb word store: a misaligned one stores free values (R462, R498, R506, R512; log entry 11). -/
def thumbStoreWord (s : State) (a : Word) (rd : LowReg) : Result :=
  if lowTwo a = 0 then storeWord s s.privileged { start := a, writeBack := none } (s.x (lowReg rd))
  else thumbUnaligned s a 4 (storeFree s 4 (alignWord a) a)

/-- Thumb halfword store (R462, R499, R510; log entry 11). -/
def thumbStoreHalf (s : State) (a : Word) (rd : LowReg) : Result :=
  if a.getLsbD 0 then thumbUnaligned s a 2 (storeFree s 2 (alignHalf a) a)
  else storeHalf s { start := a, writeBack := none } (s.x (lowReg rd))

/-- A list of low registers (R519, R520). -/
def lowList (list : BitVec 8) : BitVec 16 := 0#8 ++ list

/-- The list of PUSH: R adds register 14 (R516). -/
def pushList (r : Bool) (list : BitVec 8) : BitVec 16 := 0#1 ++ BitVec.ofBool r ++ 0#6 ++ list

/-- The list of POP: R adds the pc (R517). -/
def popList (r : Bool) (list : BitVec 8) : BitVec 16 := BitVec.ofBool r ++ 0#7 ++ list

/-- Thumb LDR (3), pc-relative (R476). -/
def execTLdr3 (rd : LowReg) (imm8 : BitVec 8) (s : State) : Result :=
  always (.tLdr3 rd imm8) (thumbLoadWord s (alignWord s.pcRead + (imm8.setWidth 32 <<< 2)) rd)

/-- Thumb STR (2) (R498, R532). -/
def execTStr2 (rm rn rd : LowReg) (s : State) : Result :=
  always (.tStr2 rm rn rd) (thumbStoreWord s (s.x (lowReg rn) + s.x (lowReg rm)) rd)

/-- Thumb STRH (2) (R499, R532). -/
def execTStrh2 (rm rn rd : LowReg) (s : State) : Result :=
  always (.tStrh2 rm rn rd) (thumbStoreHalf s (s.x (lowReg rn) + s.x (lowReg rm)) rd)

/-- Thumb STRB (2) (R500, R532). -/
def execTStrb2 (rm rn rd : LowReg) (s : State) : Result :=
  always (.tStrb2 rm rn rd)
    (storeByte s s.privileged { start := s.x (lowReg rn) + s.x (lowReg rm), writeBack := none } (s.x (lowReg rd)))

/-- Thumb LDRSB (R501, R532). -/
def execTLdrsb (rm rn rd : LowReg) (s : State) : Result :=
  always (.tLdrsb rm rn rd)
    (loadSignedByte s { start := s.x (lowReg rn) + s.x (lowReg rm), writeBack := none } (lowReg rd))

/-- Thumb LDR (2) (R502, R532). -/
def execTLdr2 (rm rn rd : LowReg) (s : State) : Result :=
  always (.tLdr2 rm rn rd) (thumbLoadWord s (s.x (lowReg rn) + s.x (lowReg rm)) rd)

/-- Thumb LDRH (2) (R503, R532). -/
def execTLdrh2 (rm rn rd : LowReg) (s : State) : Result :=
  always (.tLdrh2 rm rn rd) (thumbLoadHalf s (s.x (lowReg rn) + s.x (lowReg rm)) rd (BitVec.setWidth 32))

/-- Thumb LDRB (2) (R504, R532). -/
def execTLdrb2 (rm rn rd : LowReg) (s : State) : Result :=
  always (.tLdrb2 rm rn rd)
    (loadByte s s.privileged { start := s.x (lowReg rn) + s.x (lowReg rm), writeBack := none } (lowReg rd))

/-- Thumb LDRSH (R505, R532). -/
def execTLdrsh (rm rn rd : LowReg) (s : State) : Result :=
  always (.tLdrsh rm rn rd) (thumbLoadHalf s (s.x (lowReg rn) + s.x (lowReg rm)) rd (BitVec.signExtend 32))

/-- Thumb STR (1) (R506, R533). -/
def execTStr1 (imm5 : BitVec 5) (rn rd : LowReg) (s : State) : Result :=
  always (.tStr1 imm5 rn rd) (thumbStoreWord s (s.x (lowReg rn) + (imm5.setWidth 32 <<< 2)) rd)

/-- Thumb LDR (1) (R507, R533). -/
def execTLdr1 (imm5 : BitVec 5) (rn rd : LowReg) (s : State) : Result :=
  always (.tLdr1 imm5 rn rd) (thumbLoadWord s (s.x (lowReg rn) + (imm5.setWidth 32 <<< 2)) rd)

/-- Thumb STRB (1) (R508, R533). -/
def execTStrb1 (imm5 : BitVec 5) (rn rd : LowReg) (s : State) : Result :=
  always (.tStrb1 imm5 rn rd)
    (storeByte s s.privileged { start := s.x (lowReg rn) + imm5.setWidth 32, writeBack := none } (s.x (lowReg rd)))

/-- Thumb LDRB (1) (R509, R533). -/
def execTLdrb1 (imm5 : BitVec 5) (rn rd : LowReg) (s : State) : Result :=
  always (.tLdrb1 imm5 rn rd)
    (loadByte s s.privileged { start := s.x (lowReg rn) + imm5.setWidth 32, writeBack := none } (lowReg rd))

/-- Thumb STRH (1) (R510, R533). -/
def execTStrh1 (imm5 : BitVec 5) (rn rd : LowReg) (s : State) : Result :=
  always (.tStrh1 imm5 rn rd) (thumbStoreHalf s (s.x (lowReg rn) + (imm5.setWidth 32 <<< 1)) rd)

/-- Thumb LDRH (1) (R511, R533). -/
def execTLdrh1 (imm5 : BitVec 5) (rn rd : LowReg) (s : State) : Result :=
  always (.tLdrh1 imm5 rn rd) (thumbLoadHalf s (s.x (lowReg rn) + (imm5.setWidth 32 <<< 1)) rd (BitVec.setWidth 32))

/-- Thumb STR (3), sp-relative (R512). -/
def execTStr3 (rd : LowReg) (imm8 : BitVec 8) (s : State) : Result :=
  always (.tStr3 rd imm8) (thumbStoreWord s (s.x 13 + (imm8.setWidth 32 <<< 2)) rd)

/-- Thumb LDR (4), sp-relative (R513). -/
def execTLdr4 (rd : LowReg) (imm8 : BitVec 8) (s : State) : Result :=
  always (.tLdr4 rd imm8) (thumbLoadWord s (s.x 13 + (imm8.setWidth 32 <<< 2)) rd)

/-- Thumb PUSH (R516). -/
def execTPush (r : Bool) (list : BitVec 8) (s : State) : Result :=
  always (.tPush r list) (storeMultiple s (block true false true 13 (s.x 13) (pushList r list)) (pushList r list))

/-- Thumb POP (R517). -/
def execTPop (r : Bool) (list : BitVec 8) (s : State) : Result :=
  always (.tPop r list) (loadMultiple s (block false true true 13 (s.x 13) (popList r list)) (popList r list))

/-- Thumb STMIA (R519). -/
def execTStmia (rn : LowReg) (list : BitVec 8) (s : State) : Result :=
  always (.tStmia rn list)
    (storeMultiple s (block false true true (lowReg rn) (s.x (lowReg rn)) (lowList list)) (lowList list))

/-- Thumb LDMIA (R520). -/
def execTLdmia (rn : LowReg) (list : BitVec 8) (s : State) : Result :=
  always (.tLdmia rn list)
    (loadMultiple s
      (block false true (!list.getLsbD rn.toNat) (lowReg rn) (s.x (lowReg rn)) (lowList list)) (lowList list))

end Sys2Proof.Machine
end

