-- ==== Sys2Proof/Machine/Dispatch.lean ====
section
/-! DEFINITION. The meaning of every instruction, one arm per constructor of `Instr`. -/

namespace Sys2Proof.Machine

def exec (i : Instr) (s : State) : Host.Outcome State Fault Refusal :=
  match i with
  | .pldImm u rn imm12 => Sys2Proof.Machine.execPldImm u rn imm12 s
  | .pldReg u rn shiftImm sh rm => Sys2Proof.Machine.execPldReg u rn shiftImm sh rm s
  | .blxImm h offset24 => Sys2Proof.Machine.execBlxImm h offset24 s
  | .undefCoprocExtUncond n low => Sys2Proof.Machine.execUndefCoprocExtUncond n low s
  | .ldc2 p u n w rn crd cp offset8 => Sys2Proof.Machine.execLdc2 p u n w rn crd cp offset8 s
  | .stc2 p u n w rn crd cp offset8 => Sys2Proof.Machine.execStc2 p u n w rn crd cp offset8 s
  | .cdp2 opcode1 crn crd cp opcode2 crm => Sys2Proof.Machine.execCdp2 opcode1 crn crd cp opcode2 crm s
  | .mcr2 opcode1 crn rd cp opcode2 crm => Sys2Proof.Machine.execMcr2 opcode1 crn rd cp opcode2 crm s
  | .mrc2 opcode1 crn rd cp opcode2 crm => Sys2Proof.Machine.execMrc2 opcode1 crn rd cp opcode2 crm s
  | .undefSwiUncond low => Sys2Proof.Machine.execUndefSwiUncond low s
  | .undefBlockUncond low => Sys2Proof.Machine.execUndefBlockUncond low s
  | .undefUncond low => Sys2Proof.Machine.execUndefUncond low s
  | .clz c sbo1 rd sbo2 rm => Sys2Proof.Machine.execClz c sbo1 rd sbo2 rm s
  | .bkpt c immHi immLo => Sys2Proof.Machine.execBkpt c immHi immLo s
  | .bx c sbo rm => Sys2Proof.Machine.execBx c sbo rm s
  | .blxReg c sbo rm => Sys2Proof.Machine.execBlxReg c sbo rm s
  | .swp c rn rd sbz rm => Sys2Proof.Machine.execSwp c rn rd sbz rm s
  | .swpb c rn rd sbz rm => Sys2Proof.Machine.execSwpb c rn rd sbz rm s
  | .qadd c rn rd sbz rm => Sys2Proof.Machine.execQadd c rn rd sbz rm s
  | .qsub c rn rd sbz rm => Sys2Proof.Machine.execQsub c rn rd sbz rm s
  | .qdadd c rn rd sbz rm => Sys2Proof.Machine.execQdadd c rn rd sbz rm s
  | .qdsub c rn rd sbz rm => Sys2Proof.Machine.execQdsub c rn rd sbz rm s
  | .mul c sf rd sbz rs rm => Sys2Proof.Machine.execMul c sf rd sbz rs rm s
  | .mla c sf rd rn rs rm => Sys2Proof.Machine.execMla c sf rd rn rs rm s
  | .umull c sf rdHi rdLo rs rm => Sys2Proof.Machine.execUmull c sf rdHi rdLo rs rm s
  | .umlal c sf rdHi rdLo rs rm => Sys2Proof.Machine.execUmlal c sf rdHi rdLo rs rm s
  | .smull c sf rdHi rdLo rs rm => Sys2Proof.Machine.execSmull c sf rdHi rdLo rs rm s
  | .smlal c sf rdHi rdLo rs rm => Sys2Proof.Machine.execSmlal c sf rdHi rdLo rs rm s
  | .undefArith c op mid low => Sys2Proof.Machine.execUndefArith c op mid low s
  | .smlaxy c rd rn rs y x rm => Sys2Proof.Machine.execSmlaxy c rd rn rs y x rm s
  | .smlawy c rd rn rs y rm => Sys2Proof.Machine.execSmlawy c rd rn rs y rm s
  | .smulwy c rd sbz rs y rm => Sys2Proof.Machine.execSmulwy c rd sbz rs y rm s
  | .smlalxy c rdHi rdLo rs y x rm => Sys2Proof.Machine.execSmlalxy c rdHi rdLo rs y x rm s
  | .smulxy c rd sbz rs y x rm => Sys2Proof.Machine.execSmulxy c rd sbz rs y x rm s
  | .msrReg c r mask sbo sbzHi sbzLo rm => Sys2Proof.Machine.execMsrReg c r mask sbo sbzHi sbzLo rm s
  | .strhReg c p u w rn rd sbz rm => Sys2Proof.Machine.execStrhReg c p u w rn rd sbz rm s
  | .ldrhReg c p u w rn rd sbz rm => Sys2Proof.Machine.execLdrhReg c p u w rn rd sbz rm s
  | .ldrsbReg c p u w rn rd sbz rm => Sys2Proof.Machine.execLdrsbReg c p u w rn rd sbz rm s
  | .ldrshReg c p u w rn rd sbz rm => Sys2Proof.Machine.execLdrshReg c p u w rn rd sbz rm s
  | .strhImm c p u w rn rd offHi offLo => Sys2Proof.Machine.execStrhImm c p u w rn rd offHi offLo s
  | .ldrhImm c p u w rn rd offHi offLo => Sys2Proof.Machine.execLdrhImm c p u w rn rd offHi offLo s
  | .ldrdReg c p u w rn rd sbz rm => Sys2Proof.Machine.execLdrdReg c p u w rn rd sbz rm s
  | .strdReg c p u w rn rd sbz rm => Sys2Proof.Machine.execStrdReg c p u w rn rd sbz rm s
  | .ldrdImm c p u w rn rd offHi offLo => Sys2Proof.Machine.execLdrdImm c p u w rn rd offHi offLo s
  | .strdImm c p u w rn rd offHi offLo => Sys2Proof.Machine.execStrdImm c p u w rn rd offHi offLo s
  | .ldrsbImm c p u w rn rd offHi offLo => Sys2Proof.Machine.execLdrsbImm c p u w rn rd offHi offLo s
  | .ldrshImm c p u w rn rd offHi offLo => Sys2Proof.Machine.execLdrshImm c p u w rn rd offHi offLo s
  | .mrs c r sbo rd sbz => Sys2Proof.Machine.execMrs c r sbo rd sbz s
  | .msrImm c r mask sbo rotate imm8 => Sys2Proof.Machine.execMsrImm c r mask sbo rotate imm8 s
  | .undefImmCompare c r low => Sys2Proof.Machine.execUndefImmCompare c r low s
  | .undefCompare c op low => Sys2Proof.Machine.execUndefCompare c op low s
  | .cdp c opcode1 crn crd cp opcode2 crm => Sys2Proof.Machine.execCdp c opcode1 crn crd cp opcode2 crm s
  | .mcr c opcode1 crn rd cp opcode2 crm => Sys2Proof.Machine.execMcr c opcode1 crn rd cp opcode2 crm s
  | .mrc c opcode1 crn rd cp opcode2 crm => Sys2Proof.Machine.execMrc c opcode1 crn rd cp opcode2 crm s
  | .andRegShift c sf rn rd rs sh rm => Sys2Proof.Machine.execAndRegShift c sf rn rd rs sh rm s
  | .eorRegShift c sf rn rd rs sh rm => Sys2Proof.Machine.execEorRegShift c sf rn rd rs sh rm s
  | .subRegShift c sf rn rd rs sh rm => Sys2Proof.Machine.execSubRegShift c sf rn rd rs sh rm s
  | .rsbRegShift c sf rn rd rs sh rm => Sys2Proof.Machine.execRsbRegShift c sf rn rd rs sh rm s
  | .addRegShift c sf rn rd rs sh rm => Sys2Proof.Machine.execAddRegShift c sf rn rd rs sh rm s
  | .adcRegShift c sf rn rd rs sh rm => Sys2Proof.Machine.execAdcRegShift c sf rn rd rs sh rm s
  | .sbcRegShift c sf rn rd rs sh rm => Sys2Proof.Machine.execSbcRegShift c sf rn rd rs sh rm s
  | .rscRegShift c sf rn rd rs sh rm => Sys2Proof.Machine.execRscRegShift c sf rn rd rs sh rm s
  | .tstRegShift c rn sbz rs sh rm => Sys2Proof.Machine.execTstRegShift c rn sbz rs sh rm s
  | .teqRegShift c rn sbz rs sh rm => Sys2Proof.Machine.execTeqRegShift c rn sbz rs sh rm s
  | .cmpRegShift c rn sbz rs sh rm => Sys2Proof.Machine.execCmpRegShift c rn sbz rs sh rm s
  | .cmnRegShift c rn sbz rs sh rm => Sys2Proof.Machine.execCmnRegShift c rn sbz rs sh rm s
  | .orrRegShift c sf rn rd rs sh rm => Sys2Proof.Machine.execOrrRegShift c sf rn rd rs sh rm s
  | .movRegShift c sf sbz rd rs sh rm => Sys2Proof.Machine.execMovRegShift c sf sbz rd rs sh rm s
  | .bicRegShift c sf rn rd rs sh rm => Sys2Proof.Machine.execBicRegShift c sf rn rd rs sh rm s
  | .mvnRegShift c sf sbz rd rs sh rm => Sys2Proof.Machine.execMvnRegShift c sf sbz rd rs sh rm s
  | .andImmShift c sf rn rd shiftImm sh rm => Sys2Proof.Machine.execAndImmShift c sf rn rd shiftImm sh rm s
  | .eorImmShift c sf rn rd shiftImm sh rm => Sys2Proof.Machine.execEorImmShift c sf rn rd shiftImm sh rm s
  | .subImmShift c sf rn rd shiftImm sh rm => Sys2Proof.Machine.execSubImmShift c sf rn rd shiftImm sh rm s
  | .rsbImmShift c sf rn rd shiftImm sh rm => Sys2Proof.Machine.execRsbImmShift c sf rn rd shiftImm sh rm s
  | .addImmShift c sf rn rd shiftImm sh rm => Sys2Proof.Machine.execAddImmShift c sf rn rd shiftImm sh rm s
  | .adcImmShift c sf rn rd shiftImm sh rm => Sys2Proof.Machine.execAdcImmShift c sf rn rd shiftImm sh rm s
  | .sbcImmShift c sf rn rd shiftImm sh rm => Sys2Proof.Machine.execSbcImmShift c sf rn rd shiftImm sh rm s
  | .rscImmShift c sf rn rd shiftImm sh rm => Sys2Proof.Machine.execRscImmShift c sf rn rd shiftImm sh rm s
  | .tstImmShift c rn sbz shiftImm sh rm => Sys2Proof.Machine.execTstImmShift c rn sbz shiftImm sh rm s
  | .teqImmShift c rn sbz shiftImm sh rm => Sys2Proof.Machine.execTeqImmShift c rn sbz shiftImm sh rm s
  | .cmpImmShift c rn sbz shiftImm sh rm => Sys2Proof.Machine.execCmpImmShift c rn sbz shiftImm sh rm s
  | .cmnImmShift c rn sbz shiftImm sh rm => Sys2Proof.Machine.execCmnImmShift c rn sbz shiftImm sh rm s
  | .orrImmShift c sf rn rd shiftImm sh rm => Sys2Proof.Machine.execOrrImmShift c sf rn rd shiftImm sh rm s
  | .movImmShift c sf sbz rd shiftImm sh rm => Sys2Proof.Machine.execMovImmShift c sf sbz rd shiftImm sh rm s
  | .bicImmShift c sf rn rd shiftImm sh rm => Sys2Proof.Machine.execBicImmShift c sf rn rd shiftImm sh rm s
  | .mvnImmShift c sf sbz rd shiftImm sh rm => Sys2Proof.Machine.execMvnImmShift c sf sbz rd shiftImm sh rm s
  | .strtReg c u rn rd shiftImm sh rm => Sys2Proof.Machine.execStrtReg c u rn rd shiftImm sh rm s
  | .ldrtReg c u rn rd shiftImm sh rm => Sys2Proof.Machine.execLdrtReg c u rn rd shiftImm sh rm s
  | .strbtReg c u rn rd shiftImm sh rm => Sys2Proof.Machine.execStrbtReg c u rn rd shiftImm sh rm s
  | .ldrbtReg c u rn rd shiftImm sh rm => Sys2Proof.Machine.execLdrbtReg c u rn rd shiftImm sh rm s
  | .strReg c p u w rn rd shiftImm sh rm => Sys2Proof.Machine.execStrReg c p u w rn rd shiftImm sh rm s
  | .ldrReg c p u w rn rd shiftImm sh rm => Sys2Proof.Machine.execLdrReg c p u w rn rd shiftImm sh rm s
  | .strbReg c p u w rn rd shiftImm sh rm => Sys2Proof.Machine.execStrbReg c p u w rn rd shiftImm sh rm s
  | .ldrbReg c p u w rn rd shiftImm sh rm => Sys2Proof.Machine.execLdrbReg c p u w rn rd shiftImm sh rm s
  | .undefMedia c high low => Sys2Proof.Machine.execUndefMedia c high low s
  | .swi c number => Sys2Proof.Machine.execSwi c number s
  | .andImm c sf rn rd rotate imm8 => Sys2Proof.Machine.execAndImm c sf rn rd rotate imm8 s
  | .eorImm c sf rn rd rotate imm8 => Sys2Proof.Machine.execEorImm c sf rn rd rotate imm8 s
  | .subImm c sf rn rd rotate imm8 => Sys2Proof.Machine.execSubImm c sf rn rd rotate imm8 s
  | .rsbImm c sf rn rd rotate imm8 => Sys2Proof.Machine.execRsbImm c sf rn rd rotate imm8 s
  | .addImm c sf rn rd rotate imm8 => Sys2Proof.Machine.execAddImm c sf rn rd rotate imm8 s
  | .adcImm c sf rn rd rotate imm8 => Sys2Proof.Machine.execAdcImm c sf rn rd rotate imm8 s
  | .sbcImm c sf rn rd rotate imm8 => Sys2Proof.Machine.execSbcImm c sf rn rd rotate imm8 s
  | .rscImm c sf rn rd rotate imm8 => Sys2Proof.Machine.execRscImm c sf rn rd rotate imm8 s
  | .tstImm c rn sbz rotate imm8 => Sys2Proof.Machine.execTstImm c rn sbz rotate imm8 s
  | .teqImm c rn sbz rotate imm8 => Sys2Proof.Machine.execTeqImm c rn sbz rotate imm8 s
  | .cmpImm c rn sbz rotate imm8 => Sys2Proof.Machine.execCmpImm c rn sbz rotate imm8 s
  | .cmnImm c rn sbz rotate imm8 => Sys2Proof.Machine.execCmnImm c rn sbz rotate imm8 s
  | .orrImm c sf rn rd rotate imm8 => Sys2Proof.Machine.execOrrImm c sf rn rd rotate imm8 s
  | .movImm c sf sbz rd rotate imm8 => Sys2Proof.Machine.execMovImm c sf sbz rd rotate imm8 s
  | .bicImm c sf rn rd rotate imm8 => Sys2Proof.Machine.execBicImm c sf rn rd rotate imm8 s
  | .mvnImm c sf sbz rd rotate imm8 => Sys2Proof.Machine.execMvnImm c sf sbz rd rotate imm8 s
  | .strtImm c u rn rd imm12 => Sys2Proof.Machine.execStrtImm c u rn rd imm12 s
  | .ldrtImm c u rn rd imm12 => Sys2Proof.Machine.execLdrtImm c u rn rd imm12 s
  | .strbtImm c u rn rd imm12 => Sys2Proof.Machine.execStrbtImm c u rn rd imm12 s
  | .ldrbtImm c u rn rd imm12 => Sys2Proof.Machine.execLdrbtImm c u rn rd imm12 s
  | .strImm c p u w rn rd imm12 => Sys2Proof.Machine.execStrImm c p u w rn rd imm12 s
  | .ldrImm c p u w rn rd imm12 => Sys2Proof.Machine.execLdrImm c p u w rn rd imm12 s
  | .strbImm c p u w rn rd imm12 => Sys2Proof.Machine.execStrbImm c p u w rn rd imm12 s
  | .ldrbImm c p u w rn rd imm12 => Sys2Proof.Machine.execLdrbImm c p u w rn rd imm12 s
  | .ldm1 c p u w rn list => Sys2Proof.Machine.execLdm1 c p u w rn list s
  | .ldm2 c p u w rn list => Sys2Proof.Machine.execLdm2 c p u w rn list s
  | .ldm3 c p u w rn list => Sys2Proof.Machine.execLdm3 c p u w rn list s
  | .stm1 c p u w rn list => Sys2Proof.Machine.execStm1 c p u w rn list s
  | .stm2 c p u w rn list => Sys2Proof.Machine.execStm2 c p u w rn list s
  | .b c offset24 => Sys2Proof.Machine.execB c offset24 s
  | .bl c offset24 => Sys2Proof.Machine.execBl c offset24 s
  | .undefCoprocExt c low => Sys2Proof.Machine.execUndefCoprocExt c low s
  | .mcrr c rn rd cp opcode crm => Sys2Proof.Machine.execMcrr c rn rd cp opcode crm s
  | .mrrc c rn rd cp opcode crm => Sys2Proof.Machine.execMrrc c rn rd cp opcode crm s
  | .ldc c p u n w rn crd cp offset8 => Sys2Proof.Machine.execLdc c p u n w rn crd cp offset8 s
  | .stc c p u n w rn crd cp offset8 => Sys2Proof.Machine.execStc c p u n w rn crd cp offset8 s
  | .tAdd3 rm rn rd => Sys2Proof.Machine.execTAdd3 rm rn rd s
  | .tSub3 rm rn rd => Sys2Proof.Machine.execTSub3 rm rn rd s
  | .tAdd1 imm3 rn rd => Sys2Proof.Machine.execTAdd1 imm3 rn rd s
  | .tSub1 imm3 rn rd => Sys2Proof.Machine.execTSub1 imm3 rn rd s
  | .tLsl1 imm5 rm rd => Sys2Proof.Machine.execTLsl1 imm5 rm rd s
  | .tLsr1 imm5 rm rd => Sys2Proof.Machine.execTLsr1 imm5 rm rd s
  | .tAsr1 imm5 rm rd => Sys2Proof.Machine.execTAsr1 imm5 rm rd s
  | .tMov1 rd imm8 => Sys2Proof.Machine.execTMov1 rd imm8 s
  | .tCmp1 rn imm8 => Sys2Proof.Machine.execTCmp1 rn imm8 s
  | .tAdd2 rd imm8 => Sys2Proof.Machine.execTAdd2 rd imm8 s
  | .tSub2 rd imm8 => Sys2Proof.Machine.execTSub2 rd imm8 s
  | .tAnd rm rd => Sys2Proof.Machine.execTAnd rm rd s
  | .tEor rm rd => Sys2Proof.Machine.execTEor rm rd s
  | .tLsl2 rm rd => Sys2Proof.Machine.execTLsl2 rm rd s
  | .tLsr2 rm rd => Sys2Proof.Machine.execTLsr2 rm rd s
  | .tAsr2 rm rd => Sys2Proof.Machine.execTAsr2 rm rd s
  | .tAdc rm rd => Sys2Proof.Machine.execTAdc rm rd s
  | .tSbc rm rd => Sys2Proof.Machine.execTSbc rm rd s
  | .tRor rm rd => Sys2Proof.Machine.execTRor rm rd s
  | .tTst rm rd => Sys2Proof.Machine.execTTst rm rd s
  | .tNeg rm rd => Sys2Proof.Machine.execTNeg rm rd s
  | .tCmp2 rm rd => Sys2Proof.Machine.execTCmp2 rm rd s
  | .tCmn rm rd => Sys2Proof.Machine.execTCmn rm rd s
  | .tOrr rm rd => Sys2Proof.Machine.execTOrr rm rd s
  | .tMul rm rd => Sys2Proof.Machine.execTMul rm rd s
  | .tBic rm rd => Sys2Proof.Machine.execTBic rm rd s
  | .tMvn rm rd => Sys2Proof.Machine.execTMvn rm rd s
  | .tAdd4 h1 h2 rm rd => Sys2Proof.Machine.execTAdd4 h1 h2 rm rd s
  | .tCmp3 h1 h2 rm rd => Sys2Proof.Machine.execTCmp3 h1 h2 rm rd s
  | .tMov3 h1 h2 rm rd => Sys2Proof.Machine.execTMov3 h1 h2 rm rd s
  | .tBx h2 rm sbz => Sys2Proof.Machine.execTBx h2 rm sbz s
  | .tBlx2 h2 rm sbz => Sys2Proof.Machine.execTBlx2 h2 rm sbz s
  | .tLdr3 rd imm8 => Sys2Proof.Machine.execTLdr3 rd imm8 s
  | .tStr2 rm rn rd => Sys2Proof.Machine.execTStr2 rm rn rd s
  | .tStrh2 rm rn rd => Sys2Proof.Machine.execTStrh2 rm rn rd s
  | .tStrb2 rm rn rd => Sys2Proof.Machine.execTStrb2 rm rn rd s
  | .tLdrsb rm rn rd => Sys2Proof.Machine.execTLdrsb rm rn rd s
  | .tLdr2 rm rn rd => Sys2Proof.Machine.execTLdr2 rm rn rd s
  | .tLdrh2 rm rn rd => Sys2Proof.Machine.execTLdrh2 rm rn rd s
  | .tLdrb2 rm rn rd => Sys2Proof.Machine.execTLdrb2 rm rn rd s
  | .tLdrsh rm rn rd => Sys2Proof.Machine.execTLdrsh rm rn rd s
  | .tStr1 imm5 rn rd => Sys2Proof.Machine.execTStr1 imm5 rn rd s
  | .tLdr1 imm5 rn rd => Sys2Proof.Machine.execTLdr1 imm5 rn rd s
  | .tStrb1 imm5 rn rd => Sys2Proof.Machine.execTStrb1 imm5 rn rd s
  | .tLdrb1 imm5 rn rd => Sys2Proof.Machine.execTLdrb1 imm5 rn rd s
  | .tStrh1 imm5 rn rd => Sys2Proof.Machine.execTStrh1 imm5 rn rd s
  | .tLdrh1 imm5 rn rd => Sys2Proof.Machine.execTLdrh1 imm5 rn rd s
  | .tStr3 rd imm8 => Sys2Proof.Machine.execTStr3 rd imm8 s
  | .tLdr4 rd imm8 => Sys2Proof.Machine.execTLdr4 rd imm8 s
  | .tAdd5 rd imm8 => Sys2Proof.Machine.execTAdd5 rd imm8 s
  | .tAdd6 rd imm8 => Sys2Proof.Machine.execTAdd6 rd imm8 s
  | .tAdd7 imm7 => Sys2Proof.Machine.execTAdd7 imm7 s
  | .tSub4 imm7 => Sys2Proof.Machine.execTSub4 imm7 s
  | .tPush r list => Sys2Proof.Machine.execTPush r list s
  | .tPop r list => Sys2Proof.Machine.execTPop r list s
  | .tBkpt imm8 => Sys2Proof.Machine.execTBkpt imm8 s
  | .tUndefMisc op low => Sys2Proof.Machine.execTUndefMisc op low s
  | .tStmia rn list => Sys2Proof.Machine.execTStmia rn list s
  | .tLdmia rn list => Sys2Proof.Machine.execTLdmia rn list s
  | .tUndefCond imm8 => Sys2Proof.Machine.execTUndefCond imm8 s
  | .tSwi imm8 => Sys2Proof.Machine.execTSwi imm8 s
  | .tB1 c imm8 => Sys2Proof.Machine.execTB1 c imm8 s
  | .tB2 imm11 => Sys2Proof.Machine.execTB2 imm11 s
  | .tUndefBlx high => Sys2Proof.Machine.execTUndefBlx high s
  | .tBlx1Suffix high => Sys2Proof.Machine.execTBlx1Suffix high s
  | .tBlPrefix offset11 => Sys2Proof.Machine.execTBlPrefix offset11 s
  | .tBlSuffix offset11 => Sys2Proof.Machine.execTBlSuffix offset11 s

end Sys2Proof.Machine
end

