-- ==== Sys2Proof/Machine/Fetch.lean ====
section
/-! DEFINITION. What happens at an instruction boundary before an instruction runs: the inputs are sampled (R170 items 1
and 2, R546, R600), and the next instruction is fetched and decoded (R65, R170 items 3 to 5, R460). -/

namespace Sys2Proof.Machine

/-- The state with the inputs of the following boundary: the next levels of the schedule, or the present ones again
when it is empty (D9; log entry 8). -/
def State.nextInputs (s : State) : State :=
  match s.schedule with
  | [] => s
  | l :: rest => { s with lines := l, schedule := rest }

/-- The exception the inputs ask for at this boundary: Reset, then FIQ unless masked, then IRQ unless masked (R170, R557,
R558, R560, R600). -/
def State.pending (s : State) : Option Exception :=
  if s.lines.reset then some .reset
  else if s.lines.fiq && !Psr.f s.cpsr then some .fiq
  else if s.lines.irq && !Psr.i s.cpsr then some .irq
  else none

/-- What a fetch gives. -/
inductive Fetched where
  /-- An instruction. -/
  | instr (i : Instr)
  /-- The memory system aborts the fetch (R554). -/
  | abort
  /-- A byte has been stored to since launch (R90, D13). -/
  | selfModified
  /-- A byte has no value (D11). -/
  | unwritten
  /-- The pc is not aligned to the instruction set's width, which no run reaches (R68). -/
  | misaligned
deriving DecidableEq, Repr

/-- The addresses of the instruction's bytes (R34). -/
def State.fetchAddresses (s : State) : List Word :=
  if s.thumb then [s.pc, s.pc + 1] else [s.pc, s.pc + 1, s.pc + 2, s.pc + 3]

/-- Is the pc aligned to the instruction set's width (R26)? -/
def State.pcAligned (s : State) : Bool := if s.thumb then !s.pc.getLsbD 0 else lowTwo s.pc == 0

/-- The values of bytes, if all have one. -/
def State.bytes? (s : State) : List Word → Option (List Byte)
  | [] => some []
  | a :: rest =>
    match s.byte a, s.bytes? rest with
    | some b, some bs => some (b :: bs)
    | _, _ => none

/-- The instruction that some bytes hold. -/
def State.decodeBytes? (s : State) (bs : List Byte) : Option Instr :=
  match decodeBytes s.settings.bigend s.thumb bs with
  | .ok (i, _) => some i
  | .error _ => none

/-- Fetch and decode (R170 items 3 to 5, R460). A fetch that the memory system aborts takes its abort even where a byte has
been stored to: it gives no instruction, old or new; the spec gives no order of the two (R90, R554), and this one is the
model's (log entry 5). -/
def State.fetch (s : State) : Fetched :=
  if !s.pcAligned then .misaligned
  else if s.settings.aborts .fetch s.privileged s.width s.pc then .abort
  else if s.fetchAddresses.any fun a => s.stored.contains a.toNat then .selfModified
  else
    match (s.bytes? s.fetchAddresses).bind s.decodeBytes? with
    | some i => .instr i
    | none => .unwritten

/-! ## Placing an instruction for the next step (log entry 30) -/

/-- Place bytes of the launch contents: memory is written and the addresses count as not stored to. -/
def State.place (s : State) (a : Word) : List Byte → State
  | [] => s
  | b :: rest =>
    { s with mem := Memory.write s.mem a.toNat b, stored := s.stored.filter (· != a.toNat) }.place (a + 1) rest

/-- The four bytes of an instruction of `nbits` bits, zero above them. -/
def fetchBytes (bigend : Bool) (nbits w : Nat) : List Byte :=
  if nbits ≤ 16 then splitHalf bigend (BitVec.ofNat 16 w) ++ splitHalf bigend 0 else splitWord bigend (BitVec.ofNat 32 w)

/-- The state in which the next step fetches: the instruction set of that width, the pc aligned to it, no input asserted
and no abort of a fetch. -/
def State.readyToFetch (s : State) (nbits : Nat) : State :=
  { s with
    cpsr := Psr.withT s.cpsr (decide (nbits ≤ 16))
    pc := if nbits ≤ 16 then alignHalf s.pc else alignWord s.pc
    lines := Lines.quiet
    settings := { s.settings with memAbort := s.settings.memAbort.filter fun r => r.kind != .fetch } }

end Sys2Proof.Machine
end

