-- ==== Sys2Proof/Machine/Step.lean ====
section
/-! DEFINITION. The step (R170, R460), and the placing of an instruction where the next step fetches. -/

namespace Sys2Proof.Machine

/-- One step: an exception that the inputs ask for, or one instruction (R170). -/
def step (s : State) : Host.Outcome State Fault Refusal :=
  match s.pending with
  | some e => .next (takeException e s.nextInputs)
  | none =>
    match s.nextInputs.fetch with
    | .instr i => exec i s.nextInputs
    | .abort => .next (takeException .prefetchAbort s.nextInputs)
    | .selfModified => .refused .selfModifiedCode
    | .misaligned => .refused .misalignedPc
    | .unwritten => .fault .unwrittenMemory

/-- The state with an instruction stored where the next step fetches (log entries 9 and 30). -/
def State.withFetchWord (s : State) (nbits w : Nat) : State :=
  let r := s.readyToFetch nbits
  r.place r.pc (fetchBytes r.settings.bigend nbits w)

end Sys2Proof.Machine
end

