-- ==== Sys2Proof/Safety.lean ====
section
/-! DEFINITION. The terms that claims use: well-formed states, what a step may change, exception entry as R550 words it, and
the groups of instructions that one claim covers, with what the spec says of each. -/

namespace Sys2Proof.Machine

/-! ## States -/

/-- A state the machine can be in: a legal mode (R35), reserved status bits zero (R37), the pc aligned to the instruction
set (R26), memory and the record of stores in canonical form. -/
def State.wf (s : State) : Bool :=
  s.mode.isSome && Psr.reserved s.cpsr == 0 && Psr.reserved s.spsrFiq == 0 && Psr.reserved s.spsrIrq == 0 &&
    Psr.reserved s.spsrSvc == 0 && Psr.reserved s.spsrAbt == 0 && Psr.reserved s.spsrUnd == 0 && s.pcAligned &&
    Memory.wf s.mem && addressesRise s.stored

/-- The instruction after this one does not lie past the top of memory (R29). -/
def State.hasRoom (s : State) : Prop := s.pc.toNat + s.width < 2 ^ 32

/-- ARM state, and an instruction follows. -/
def State.armReady (s : State) : Prop := s.thumb = false ∧ s.hasRoom

/-- Thumb state, and an instruction follows. -/
def State.thumbReady (s : State) : Prop := s.thumb = true ∧ s.hasRoom

/-- The `n` bytes at `a` hold the number `v` in the configured byte order (R63, R64). -/
def State.holds (s : State) (a : Word) (n v : Nat) : Prop :=
  v < 256 ^ n ∧
    ∀ k, k < n → s.byte (a + BitVec.ofNat 32 k) =
      some (BitVec.ofNat 8 (v / 256 ^ (if s.settings.bigend then n - 1 - k else k)))

/-- Consecutive words at `a`, the low bits of the address ignored (R390, R391). -/
def State.holdsWords (s : State) (a : Word) (vs : List Word) : Prop :=
  ∀ k v, vs[k]? = some v → s.holds (alignWord a + BitVec.ofNat 32 (4 * k)) 4 v.toNat

/-- The SPSR of a mode (R36). -/
def State.spsrOf (s : State) (m : Mode) : Option Word :=
  match m with
  | .fiq => some s.spsrFiq
  | .irq => some s.spsrIrq
  | .svc => some s.spsrSvc
  | .abt => some s.spsrAbt
  | .und => some s.spsrUnd
  | .usr => none
  | .sys => none

/-- The memory system aborts none of the words of a sequence (R81). -/
def State.admits (s : State) (kind : AccessKind) (a : Word) (n : Nat) : Prop :=
  ∀ k, k < n → s.settings.aborts kind s.privileged 4 (alignWord (a + BitVec.ofNat 32 (4 * k))) = false

/-- A sequence of words that neither passes the top of memory (R82) nor fails the alignment check (R70). -/
def State.blockOk (s : State) (a : Word) (n : Nat) : Prop :=
  (alignWord a).toNat + 4 * n ≤ 2 ^ 32 ∧ (lowTwo a = 0 ∨ s.settings.alignFault = false)

/-- The instruction set of an instruction. -/
def isThumb (i : Instr) : Bool :=
  match encode i with
  | .thumb _ => true
  | .arm _ => false

/-- The state is in the instruction's instruction set, and another instruction follows. -/
def State.readyFor (s : State) (i : Instr) : Prop := s.thumb = isThumb i ∧ s.hasRoom

/-! ## What a step may change -/

/-- No byte. -/
def noBytes : Word → Prop := fun _ => False

/-- The `n` bytes at `a`. -/
def bytesAt (a : Word) (n : Nat) : Word → Prop := fun b => ∃ k, k < n ∧ b = a + BitVec.ofNat 32 k

/-- The parts of the state that no instruction changes. -/
def SameOutside (s t : State) : Prop :=
  t.coprocs = s.coprocs ∧ t.settings = s.settings ∧ t.lines = s.lines ∧ t.schedule = s.schedule

/-- The five saved program status registers. -/
def SameSpsrs (s t : State) : Prop := ∀ m, t.spsrOf m = s.spsrOf m

/-- `t` differs from `s` at most in the registers listed, the CPSR bits of `psr`, the bytes `touched`, and the pc. -/
def SameBut (regs : List (Option PhysReg)) (psr : Word) (touched : Word → Prop) (s t : State) : Prop :=
  (∀ r, some r ∉ regs → t.reg r = s.reg r) ∧ t.cpsr &&& ~~~psr = s.cpsr &&& ~~~psr ∧ SameSpsrs s t ∧
    (∀ a, ¬touched a → t.byte a = s.byte a) ∧ t.cpPast = s.cpPast ∧ SameOutside s t

/-- The CPSR bits N, Z, C, V (R30). -/
def nzcvBits : Word := 0xF0000000

/-- The CPSR bit Q. -/
def qBit : Word := 0x08000000

/-- The CPSR bit T. -/
def tBit : Word := 0x00000020

/-- The CPSR bits I, F, T and M. -/
def controlBits : Word := 0x000000FF

/-- The register of number `i` in the current mode. -/
def State.phys (s : State) (i : Reg) : Option PhysReg := physReg s.mode i

/-- The register a transfer's addressing mode writes, if it writes one. -/
def State.basePhys (s : State) (m : Address) : List (Option PhysReg) := (m.writeBack.map fun w => s.phys w.1).toList

/-- The base register holds what the addressing mode writes, if it writes. -/
def BaseWritten (m : Address) (t : State) : Prop := ∀ rn v, m.writeBack = some (rn, v) → t.x rn = v

/-- The result is a next state, and `p` holds of it. -/
def gives (r : Result) (p : State → Prop) : Prop := ∃ t, r = .next t ∧ p t

/-! ## Exceptions -/

/-- The vector offsets and modes of R541. -/
def vectorTable : List (Exception × Nat × BitVec 5) :=
  [(.reset, 0x00, 0b10011), (.undefined, 0x04, 0b11011), (.softwareInterrupt, 0x08, 0b10011),
    (.prefetchAbort, 0x0C, 0b10111), (.dataAbort, 0x10, 0b10111), (.irq, 0x18, 0b10010), (.fiq, 0x1C, 0b10001)]

/-- The link value less the pc, in ARM state and in Thumb state (R550). -/
def linkTable : List (Exception × Nat × Nat) :=
  [(.undefined, 4, 2), (.softwareInterrupt, 4, 2), (.prefetchAbort, 4, 4), (.dataAbort, 8, 8), (.irq, 4, 4), (.fiq, 4, 4)]

/-- What an exception's entry leaves alone, when it enters the mode of bits `m`: every register but that mode's link
register, every other mode's SPSR, and memory (R550). -/
def EntryFrame (m : BitVec 5) (s t : State) : Prop :=
  (∀ r, physReg (Mode.ofBits? m) 14 ≠ some r → t.reg r = s.reg r) ∧
    (∀ mode, mode.bits ≠ m → t.spsrOf mode = s.spsrOf mode) ∧ (∀ a, t.byte a = s.byte a) ∧ SameOutside s t

/-- `t` is `s` after the entry of an exception other than Reset, as R550 says it with the tables of R541 and R550. -/
def Entered (e : Exception) (s t : State) : Prop :=
  ∃ offset m armLink thumbLink,
    (e, offset, m) ∈ vectorTable ∧ (e, armLink, thumbLink) ∈ linkTable ∧ Psr.m t.cpsr = m ∧
    t.x 14 = s.pc + BitVec.ofNat 32 (if s.thumb then thumbLink else armLink) ∧ t.spsr? = some s.cpsr ∧
    Psr.t t.cpsr = false ∧ Psr.i t.cpsr = true ∧ (Psr.f t.cpsr = true ↔ e = .fiq ∨ Psr.f s.cpsr = true) ∧
    t.cpsr &&& ~~~controlBits = s.cpsr &&& ~~~controlBits ∧
    t.pc = (if s.settings.hivecs then 0xFFFF0000 else 0) + BitVec.ofNat 32 offset ∧ t.cpPast = s.cpPast ∧
    EntryFrame m s t

/-- The instructions whose own effect is to take an exception, with the condition they need (R203, R425, R430 to R433,
R449, R518, R522, R523, R528). -/
inductive Raises : Instr → Cond → Exception → Prop
  | swi (c number) : Raises (.swi c number) c .softwareInterrupt
  | tSwi (imm8) : Raises (.tSwi imm8) .al .softwareInterrupt
  | bkpt (c immHi immLo) : Raises (.bkpt c immHi immLo) c .prefetchAbort
  | tBkpt (imm8) : Raises (.tBkpt imm8) .al .prefetchAbort
  | undefArith (c op mid low) : Raises (.undefArith c op mid low) c .undefined
  | undefImmCompare (c r low) : Raises (.undefImmCompare c r low) c .undefined
  | undefCompare (c op low) : Raises (.undefCompare c op low) c .undefined
  | undefMedia (c high low) : Raises (.undefMedia c high low) c .undefined
  | undefCoprocExt (c low) : Raises (.undefCoprocExt c low) c .undefined
  | undefCoprocExtUncond (n low) : Raises (.undefCoprocExtUncond n low) .al .undefined
  | undefSwiUncond (low) : Raises (.undefSwiUncond low) .al .undefined
  | undefBlockUncond (low) : Raises (.undefBlockUncond low) .al .undefined
  | undefUncond (low) : Raises (.undefUncond low) .al .undefined
  | tUndefMisc (op low) : Raises (.tUndefMisc op low) .al .undefined
  | tUndefCond (imm8) : Raises (.tUndefCond imm8) .al .undefined
  | tUndefBlx (high) : Raises (.tUndefBlx high) .al .undefined

/-! ## Arithmetic and logic -/

/-- A calculation: the one adder of R360, or a logical result with the carry-out it comes with. -/
inductive Calc where
  | sum (a b : Word) (carryIn : Bool)
  | logic (r : Word) (carry : Bool)
deriving DecidableEq, Repr

/-- The 33-bit sum of the adder. -/
def wideSum (a b : Word) (carryIn : Bool) : BitVec 33 := a.setWidth 33 + b.setWidth 33 + (BitVec.ofBool carryIn).setWidth 33

/-- The result. -/
def Calc.result : Calc → Word
  | .sum a b c => (wideSum a b c).extractLsb' 0 32
  | .logic r _ => r

/-- The carry out. -/
def Calc.carry : Calc → Bool
  | .sum a b c => (wideSum a b c).getLsbD 32
  | .logic _ c => c

/-- V afterwards, from V before: addends of the same sign and a result of another (R360); a logical result keeps V. -/
def Calc.overflow (k : Calc) (v : Bool) : Bool :=
  match k with
  | .sum a b _ => a.getLsbD 31 == b.getLsbD 31 && k.result.getLsbD 31 != a.getLsbD 31
  | .logic _ _ => v

/-- A logical result with its carry-out. -/
def calcOf (o : Operand2) : Calc := .logic o.value o.carry

/-- N, Z, C and V of `t` are those of the calculation (R322). -/
def Calc.FlagsIn (k : Calc) (s t : State) : Prop :=
  Psr.n t.cpsr = k.result.getLsbD 31 ∧ (Psr.z t.cpsr = true ↔ k.result = 0) ∧ Psr.c t.cpsr = k.carry ∧
    Psr.v t.cpsr = k.overflow (Psr.v s.cpsr)

/-- N and Z of `t` are those of a result of any width; C and V are kept (R247, R529). -/
def NzIn (width r : Nat) (s t : State) : Prop :=
  Psr.n t.cpsr = decide (2 ^ (width - 1) ≤ r) ∧ (Psr.z t.cpsr = true ↔ r = 0) ∧ Psr.c t.cpsr = Psr.c s.cpsr ∧
    Psr.v t.cpsr = Psr.v s.cpsr

/-- A second operand (R175). -/
inductive DpForm where
  | imm (rotate : BitVec 4) (imm8 : BitVec 8)
  | immShift (n : BitVec 5) (sh : Shift) (rm : Reg)
  | regShift (rs : Reg) (sh : Shift) (rm : Reg)
deriving DecidableEq, Repr

/-- Its value and carry-out. -/
def DpForm.operand (s : State) : DpForm → Operand2
  | .imm rotate imm8 => s.immediate rotate imm8
  | .immShift n sh rm => s.immShift n sh rm
  | .regShift rs sh rm => s.regShift rs sh rm

/-- The data-processing opcodes with a destination (R320). -/
inductive DpOp where
  | and | eor | sub | rsb | add | adc | sbc | rsc | orr | mov | bic | mvn
deriving DecidableEq, Repr

/-- The instruction of an opcode and a second operand; MOV and MVN have no first operand, and their `rn` is the SBZ
field. -/
def DpOp.instr (c : Cond) (sf : Bool) (rn rd : Reg) : DpOp → DpForm → Instr
  | .and, .imm rotate imm8 => .andImm c sf rn rd rotate imm8
  | .and, .immShift n sh rm => .andImmShift c sf rn rd n sh rm
  | .and, .regShift rs sh rm => .andRegShift c sf rn rd rs sh rm
  | .eor, .imm rotate imm8 => .eorImm c sf rn rd rotate imm8
  | .eor, .immShift n sh rm => .eorImmShift c sf rn rd n sh rm
  | .eor, .regShift rs sh rm => .eorRegShift c sf rn rd rs sh rm
  | .sub, .imm rotate imm8 => .subImm c sf rn rd rotate imm8
  | .sub, .immShift n sh rm => .subImmShift c sf rn rd n sh rm
  | .sub, .regShift rs sh rm => .subRegShift c sf rn rd rs sh rm
  | .rsb, .imm rotate imm8 => .rsbImm c sf rn rd rotate imm8
  | .rsb, .immShift n sh rm => .rsbImmShift c sf rn rd n sh rm
  | .rsb, .regShift rs sh rm => .rsbRegShift c sf rn rd rs sh rm
  | .add, .imm rotate imm8 => .addImm c sf rn rd rotate imm8
  | .add, .immShift n sh rm => .addImmShift c sf rn rd n sh rm
  | .add, .regShift rs sh rm => .addRegShift c sf rn rd rs sh rm
  | .adc, .imm rotate imm8 => .adcImm c sf rn rd rotate imm8
  | .adc, .immShift n sh rm => .adcImmShift c sf rn rd n sh rm
  | .adc, .regShift rs sh rm => .adcRegShift c sf rn rd rs sh rm
  | .sbc, .imm rotate imm8 => .sbcImm c sf rn rd rotate imm8
  | .sbc, .immShift n sh rm => .sbcImmShift c sf rn rd n sh rm
  | .sbc, .regShift rs sh rm => .sbcRegShift c sf rn rd rs sh rm
  | .rsc, .imm rotate imm8 => .rscImm c sf rn rd rotate imm8
  | .rsc, .immShift n sh rm => .rscImmShift c sf rn rd n sh rm
  | .rsc, .regShift rs sh rm => .rscRegShift c sf rn rd rs sh rm
  | .orr, .imm rotate imm8 => .orrImm c sf rn rd rotate imm8
  | .orr, .immShift n sh rm => .orrImmShift c sf rn rd n sh rm
  | .orr, .regShift rs sh rm => .orrRegShift c sf rn rd rs sh rm
  | .mov, .imm rotate imm8 => .movImm c sf rn rd rotate imm8
  | .mov, .immShift n sh rm => .movImmShift c sf rn rd n sh rm
  | .mov, .regShift rs sh rm => .movRegShift c sf rn rd rs sh rm
  | .bic, .imm rotate imm8 => .bicImm c sf rn rd rotate imm8
  | .bic, .immShift n sh rm => .bicImmShift c sf rn rd n sh rm
  | .bic, .regShift rs sh rm => .bicRegShift c sf rn rd rs sh rm
  | .mvn, .imm rotate imm8 => .mvnImm c sf rn rd rotate imm8
  | .mvn, .immShift n sh rm => .mvnImmShift c sf rn rd n sh rm
  | .mvn, .regShift rs sh rm => .mvnRegShift c sf rn rd rs sh rm

/-- What an opcode calculates from the first operand, the second and C (R330 to R345), each subtraction as a sum
(R360). -/
def DpOp.calc (a : Word) (b : Operand2) (c : Bool) : DpOp → Calc
  | .and => .logic (a &&& b.value) b.carry
  | .eor => .logic (a ^^^ b.value) b.carry
  | .sub => .sum a (~~~b.value) true
  | .rsb => .sum b.value (~~~a) true
  | .add => .sum a b.value false
  | .adc => .sum a b.value c
  | .sbc => .sum a (~~~b.value) c
  | .rsc => .sum b.value (~~~a) c
  | .orr => .logic (a ||| b.value) b.carry
  | .mov => .logic b.value b.carry
  | .bic => .logic (a &&& ~~~b.value) b.carry
  | .mvn => .logic (~~~b.value) b.carry

/-- What an opcode calculates in a state. -/
def DpOp.calcIn (s : State) (rn : Reg) (op : DpOp) (f : DpForm) : Calc :=
  op.calc (s.x rn) (f.operand s) (Psr.c s.cpsr)

/-- The compare opcodes (R338 to R341), each by the opcode that calculates the same. -/
def compareInstr (c : Cond) (rn : Reg) : DpOp → DpForm → Option Instr
  | .and, .imm rotate imm8 => some (.tstImm c rn 0 rotate imm8)
  | .and, .immShift n sh rm => some (.tstImmShift c rn 0 n sh rm)
  | .and, .regShift rs sh rm => some (.tstRegShift c rn 0 rs sh rm)
  | .eor, .imm rotate imm8 => some (.teqImm c rn 0 rotate imm8)
  | .eor, .immShift n sh rm => some (.teqImmShift c rn 0 n sh rm)
  | .eor, .regShift rs sh rm => some (.teqRegShift c rn 0 rs sh rm)
  | .sub, .imm rotate imm8 => some (.cmpImm c rn 0 rotate imm8)
  | .sub, .immShift n sh rm => some (.cmpImmShift c rn 0 n sh rm)
  | .sub, .regShift rs sh rm => some (.cmpRegShift c rn 0 rs sh rm)
  | .add, .imm rotate imm8 => some (.cmnImm c rn 0 rotate imm8)
  | .add, .immShift n sh rm => some (.cmnImmShift c rn 0 n sh rm)
  | .add, .regShift rs sh rm => some (.cmnRegShift c rn 0 rs sh rm)
  | _, _ => none

/-- The Thumb instructions that calculate and set all four flags, with their destination (R463 to R473, R475, R484 to R489,
R491 to R493). -/
inductive ThumbCalc (s : State) : Instr → Option LowReg → Calc → Prop
  | tAdd3 (rm rn rd) : ThumbCalc s (.tAdd3 rm rn rd) (some rd) (.sum (s.x (lowReg rn)) (s.x (lowReg rm)) false)
  | tSub3 (rm rn rd) : ThumbCalc s (.tSub3 rm rn rd) (some rd) (.sum (s.x (lowReg rn)) (~~~s.x (lowReg rm)) true)
  | tAdd1 (imm3 rn rd) : ThumbCalc s (.tAdd1 imm3 rn rd) (some rd) (.sum (s.x (lowReg rn)) (imm3.setWidth 32) false)
  | tSub1 (imm3 rn rd) :
    ThumbCalc s (.tSub1 imm3 rn rd) (some rd)
      (.sum (s.x (lowReg rn)) (~~~imm3.setWidth 32) true)
  | tAdd2 (rd imm8) : ThumbCalc s (.tAdd2 rd imm8) (some rd) (.sum (s.x (lowReg rd)) (imm8.setWidth 32) false)
  | tSub2 (rd imm8) : ThumbCalc s (.tSub2 rd imm8) (some rd) (.sum (s.x (lowReg rd)) (~~~imm8.setWidth 32) true)
  | tAdc (rm rd) : ThumbCalc s (.tAdc rm rd) (some rd) (.sum (s.x (lowReg rd)) (s.x (lowReg rm)) (Psr.c s.cpsr))
  | tSbc (rm rd) : ThumbCalc s (.tSbc rm rd) (some rd) (.sum (s.x (lowReg rd)) (~~~s.x (lowReg rm)) (Psr.c s.cpsr))
  | tNeg (rm rd) : ThumbCalc s (.tNeg rm rd) (some rd) (.sum 0 (~~~s.x (lowReg rm)) true)
  | tCmp1 (rn imm8) : ThumbCalc s (.tCmp1 rn imm8) none (.sum (s.x (lowReg rn)) (~~~imm8.setWidth 32) true)
  | tCmp2 (rm rd) : ThumbCalc s (.tCmp2 rm rd) none (.sum (s.x (lowReg rd)) (~~~s.x (lowReg rm)) true)
  | tCmn (rm rd) : ThumbCalc s (.tCmn rm rd) none (.sum (s.x (lowReg rd)) (s.x (lowReg rm)) false)
  | tCmp3 (h1 h2 rm rd) :
    ThumbCalc s (.tCmp3 h1 h2 rm rd) none
      (.sum (s.x (highReg h1 rd)) (~~~s.x (highReg h2 rm)) true)
  | tLsl1 (imm5 rm rd) :
    ThumbCalc s (.tLsl1 imm5 rm rd) (some rd)
      (calcOf (shiftByImm .lsl (s.x (lowReg rm)) imm5 (Psr.c s.cpsr)))
  | tLsr1 (imm5 rm rd) :
    ThumbCalc s (.tLsr1 imm5 rm rd) (some rd)
      (calcOf (shiftByImm .lsr (s.x (lowReg rm)) imm5 (Psr.c s.cpsr)))
  | tAsr1 (imm5 rm rd) :
    ThumbCalc s (.tAsr1 imm5 rm rd) (some rd)
      (calcOf (shiftByImm .asr (s.x (lowReg rm)) imm5 (Psr.c s.cpsr)))
  | tLsl2 (rm rd) :
    ThumbCalc s (.tLsl2 rm rd) (some rd)
      (calcOf (shiftByReg .lsl (s.x (lowReg rd)) ((s.x (lowReg rm)).setWidth 8) (Psr.c s.cpsr)))
  | tLsr2 (rm rd) :
    ThumbCalc s (.tLsr2 rm rd) (some rd)
      (calcOf (shiftByReg .lsr (s.x (lowReg rd)) ((s.x (lowReg rm)).setWidth 8) (Psr.c s.cpsr)))
  | tAsr2 (rm rd) :
    ThumbCalc s (.tAsr2 rm rd) (some rd)
      (calcOf (shiftByReg .asr (s.x (lowReg rd)) ((s.x (lowReg rm)).setWidth 8) (Psr.c s.cpsr)))
  | tRor (rm rd) :
    ThumbCalc s (.tRor rm rd) (some rd)
      (calcOf (shiftByReg .ror (s.x (lowReg rd)) ((s.x (lowReg rm)).setWidth 8) (Psr.c s.cpsr)))

/-- The Thumb instructions that set N and Z alone, with their destination and result (R470, R482, R483, R490, R494 to
R497). -/
inductive ThumbLogic (s : State) : Instr → Option LowReg → Word → Prop
  | tMov1 (rd imm8) : ThumbLogic s (.tMov1 rd imm8) (some rd) (imm8.setWidth 32)
  | tAnd (rm rd) : ThumbLogic s (.tAnd rm rd) (some rd) (s.x (lowReg rd) &&& s.x (lowReg rm))
  | tEor (rm rd) : ThumbLogic s (.tEor rm rd) (some rd) (s.x (lowReg rd) ^^^ s.x (lowReg rm))
  | tOrr (rm rd) : ThumbLogic s (.tOrr rm rd) (some rd) (s.x (lowReg rd) ||| s.x (lowReg rm))
  | tBic (rm rd) : ThumbLogic s (.tBic rm rd) (some rd) (s.x (lowReg rd) &&& ~~~s.x (lowReg rm))
  | tMvn (rm rd) : ThumbLogic s (.tMvn rm rd) (some rd) (~~~s.x (lowReg rm))
  | tMul (rm rd) : ThumbLogic s (.tMul rm rd) (some rd) (BitVec.ofNat 32 ((s.x (lowReg rm)).toNat * (s.x (lowReg rd)).toNat))
  | tTst (rm rd) : ThumbLogic s (.tTst rm rd) none (s.x (lowReg rd) &&& s.x (lowReg rm))

/-- The Thumb instructions that write a register and no flag, with the register and the value (R474, R477, R480, R481, R514,
R515). -/
inductive ThumbWrites (s : State) : Instr → Reg → Word → Prop
  | tAdd4 (h1 h2 rm rd) :
    ThumbWrites s (.tAdd4 h1 h2 rm rd) (highReg h1 rd) (s.x (highReg h1 rd) + s.x (highReg h2 rm))
  | tMov3 (h1 h2 rm rd) : ThumbWrites s (.tMov3 h1 h2 rm rd) (highReg h1 rd) (s.x (highReg h2 rm))
  | tAdd5 (rd imm8) :
    ThumbWrites s (.tAdd5 rd imm8) (lowReg rd) (((s.pc + 4) &&& 0xFFFFFFFC) + BitVec.ofNat 32 (4 * imm8.toNat))
  | tAdd6 (rd imm8) : ThumbWrites s (.tAdd6 rd imm8) (lowReg rd) (s.x 13 + BitVec.ofNat 32 (4 * imm8.toNat))
  | tAdd7 (imm7) : ThumbWrites s (.tAdd7 imm7) 13 (s.x 13 + BitVec.ofNat 32 (4 * imm7.toNat))
  | tSub4 (imm7) : ThumbWrites s (.tSub4 imm7) 13 (s.x 13 - BitVec.ofNat 32 (4 * imm7.toNat))

/-- The saturating instructions with the exact sum they saturate, and whether the doubling before it saturates (R225 to
R228). -/
inductive Saturates (s : State) : Instr → Cond → Reg → Int → Bool → Prop
  | qadd (c rn rd sbz rm) : Saturates s (.qadd c rn rd sbz rm) c rd ((s.x rm).toInt + (s.x rn).toInt) false
  | qsub (c rn rd sbz rm) : Saturates s (.qsub c rn rd sbz rm) c rd ((s.x rm).toInt - (s.x rn).toInt) false
  | qdadd (c rn rd sbz rm) :
    Saturates s (.qdadd c rn rd sbz rm) c rd
      ((s.x rm).toInt + max (-2 ^ 31) (min (2 ^ 31 - 1) (2 * (s.x rn).toInt)))
      (decide (2 * (s.x rn).toInt ≠ max (-2 ^ 31) (min (2 ^ 31 - 1) (2 * (s.x rn).toInt))))
  | qdsub (c rn rd sbz rm) :
    Saturates s (.qdsub c rn rd sbz rm) c rd
      ((s.x rm).toInt - max (-2 ^ 31) (min (2 ^ 31 - 1) (2 * (s.x rn).toInt)))
      (decide (2 * (s.x rn).toInt ≠ max (-2 ^ 31) (min (2 ^ 31 - 1) (2 * (s.x rn).toInt))))

/-- MUL and MLA with the number whose low 32 bits they write (R240, R241). -/
inductive Multiplies (s : State) : Instr → Cond → Bool → Reg → Nat → Prop
  | mul (c sf rd sbz rs rm) : Multiplies s (.mul c sf rd sbz rs rm) c sf rd ((s.x rm).toNat * (s.x rs).toNat)
  | mla (c sf rd rn rs rm) :
    Multiplies s (.mla c sf rd rn rs rm) c sf rd ((s.x rm).toNat * (s.x rs).toNat + (s.x rn).toNat)

/-- The value of a register pair. -/
def State.pairNat (s : State) (hi lo : Reg) : Nat := (s.x hi).toNat * 2 ^ 32 + (s.x lo).toNat

/-- A signed half of a register (R248). -/
def halfInt (v : Word) (top : Bool) : Int :=
  let h : Int := (v.toNat / (if top then 2 ^ 16 else 1) % 2 ^ 16 : Nat)
  if h < 2 ^ 15 then h else h - 2 ^ 16

/-- The multiplies that write a pair, with their flag bit and the exact result (R242 to R245, R253). -/
inductive MultipliesLong (s : State) : Instr → Cond → Bool → Reg → Reg → Int → Prop
  | umull (c sf hi lo rs rm) :
    MultipliesLong s (.umull c sf hi lo rs rm) c sf hi lo ((s.x rm).toNat * (s.x rs).toNat : Nat)
  | umlal (c sf hi lo rs rm) :
    MultipliesLong s (.umlal c sf hi lo rs rm) c sf hi lo ((s.x rm).toNat * (s.x rs).toNat + s.pairNat hi lo : Nat)
  | smull (c sf hi lo rs rm) : MultipliesLong s (.smull c sf hi lo rs rm) c sf hi lo ((s.x rm).toInt * (s.x rs).toInt)
  | smlal (c sf hi lo rs rm) :
    MultipliesLong s (.smlal c sf hi lo rs rm) c sf hi lo ((s.x rm).toInt * (s.x rs).toInt + s.pairNat hi lo)
  | smlalxy (c hi lo rs y x rm) :
    MultipliesLong s (.smlalxy c hi lo rs y x rm) c false hi lo
      (s.pairNat hi lo + halfInt (s.x rm) x * halfInt (s.x rs) y)

/-- The 16-bit multiplies that write one register, with the exact result and whether an overflow sets Q (R250 to R252,
R254). -/
inductive MultipliesHalves (s : State) : Instr → Cond → Reg → Int → Bool → Prop
  | smlaxy (c rd rn rs y x rm) :
    MultipliesHalves s (.smlaxy c rd rn rs y x rm) c rd
      (halfInt (s.x rm) x * halfInt (s.x rs) y + (s.x rn).toInt) true
  | smlawy (c rd rn rs y rm) :
    MultipliesHalves s (.smlawy c rd rn rs y rm) c rd
      (((s.x rm).toInt * halfInt (s.x rs) y).fdiv (2 ^ 16) + (s.x rn).toInt) true
  | smulwy (c rd sbz rs y rm) :
    MultipliesHalves s (.smulwy c rd sbz rs y rm) c rd (((s.x rm).toInt * halfInt (s.x rs) y).fdiv (2 ^ 16)) false
  | smulxy (c rd sbz rs y x rm) :
    MultipliesHalves s (.smulxy c rd sbz rs y x rm) c rd (halfInt (s.x rm) x * halfInt (s.x rs) y) false

/-! ## Loads and stores -/

/-- The word loads with their access rights, address and destination (R375, R379). -/
inductive LoadsWord (s : State) : Instr → Cond → Bool → Address → Reg → Prop
  | ldrReg (c p u w rn rd n sh rm) :
    LoadsWord s (.ldrReg c p u w rn rd n sh rm) c s.privileged (s.wordReg p u w rn n sh rm) rd
  | ldrImm (c p u w rn rd imm12) :
    LoadsWord s (.ldrImm c p u w rn rd imm12) c s.privileged (s.wordImm p u w rn imm12) rd
  | ldrtReg (c u rn rd n sh rm) : LoadsWord s (.ldrtReg c u rn rd n sh rm) c false (s.wordReg false u true rn n sh rm) rd
  | ldrtImm (c u rn rd imm12) : LoadsWord s (.ldrtImm c u rn rd imm12) c false (s.wordImm false u true rn imm12) rd

/-- The byte and halfword loads with their access rights, address, destination, width in bytes and whether they extend the
sign (R293 to R295, R376, R380). -/
inductive LoadsNarrow (s : State) : Instr → Cond → Bool → Address → Reg → Nat → Bool → Prop
  | ldrbReg (c p u w rn rd n sh rm) :
    LoadsNarrow s (.ldrbReg c p u w rn rd n sh rm) c s.privileged (s.wordReg p u w rn n sh rm) rd 1 false
  | ldrbImm (c p u w rn rd imm12) :
    LoadsNarrow s (.ldrbImm c p u w rn rd imm12) c s.privileged (s.wordImm p u w rn imm12) rd 1 false
  | ldrbtReg (c u rn rd n sh rm) :
    LoadsNarrow s (.ldrbtReg c u rn rd n sh rm) c false (s.wordReg false u true rn n sh rm) rd 1 false
  | ldrbtImm (c u rn rd imm12) :
    LoadsNarrow s (.ldrbtImm c u rn rd imm12) c false (s.wordImm false u true rn imm12) rd 1 false
  | ldrsbReg (c p u w rn rd sbz rm) :
    LoadsNarrow s (.ldrsbReg c p u w rn rd sbz rm) c s.privileged (s.extraReg p u w rn rm) rd 1 true
  | ldrsbImm (c p u w rn rd hi lo) :
    LoadsNarrow s (.ldrsbImm c p u w rn rd hi lo) c s.privileged (s.extraImm p u w rn hi lo) rd 1 true
  | ldrhReg (c p u w rn rd sbz rm) :
    LoadsNarrow s (.ldrhReg c p u w rn rd sbz rm) c s.privileged (s.extraReg p u w rn rm) rd 2 false
  | ldrhImm (c p u w rn rd hi lo) :
    LoadsNarrow s (.ldrhImm c p u w rn rd hi lo) c s.privileged (s.extraImm p u w rn hi lo) rd 2 false
  | ldrshReg (c p u w rn rd sbz rm) :
    LoadsNarrow s (.ldrshReg c p u w rn rd sbz rm) c s.privileged (s.extraReg p u w rn rm) rd 2 true
  | ldrshImm (c p u w rn rd hi lo) :
    LoadsNarrow s (.ldrshImm c p u w rn rd hi lo) c s.privileged (s.extraImm p u w rn hi lo) rd 2 true

/-- The stores of one register with their access rights, address, width in bytes and value (R292, R377, R378, R381,
R382). -/
inductive Stores (s : State) : Instr → Cond → Bool → Address → Nat → Word → Prop
  | strReg (c p u w rn rd n sh rm) :
    Stores s (.strReg c p u w rn rd n sh rm) c s.privileged (s.wordReg p u w rn n sh rm) 4
      (if rd = 15 then s.pc + s.settings.storePc.value else s.x rd)
  | strtReg (c u rn rd n sh rm) :
    Stores s (.strtReg c u rn rd n sh rm) c false (s.wordReg false u true rn n sh rm) 4
      (if rd = 15 then s.pc + s.settings.storePc.value else s.x rd)
  | strbReg (c p u w rn rd n sh rm) : Stores s (.strbReg c p u w rn rd n sh rm) c s.privileged (s.wordReg p u w rn n sh rm) 1 (s.x rd)
  | strbtReg (c u rn rd n sh rm) : Stores s (.strbtReg c u rn rd n sh rm) c false (s.wordReg false u true rn n sh rm) 1 (s.x rd)
  | strImm (c p u w rn rd imm12) :
    Stores s (.strImm c p u w rn rd imm12) c s.privileged (s.wordImm p u w rn imm12) 4
      (if rd = 15 then s.pc + s.settings.storePc.value else s.x rd)
  | strtImm (c u rn rd imm12) :
    Stores s (.strtImm c u rn rd imm12) c false (s.wordImm false u true rn imm12) 4
      (if rd = 15 then s.pc + s.settings.storePc.value else s.x rd)
  | strbImm (c p u w rn rd imm12) : Stores s (.strbImm c p u w rn rd imm12) c s.privileged (s.wordImm p u w rn imm12) 1 (s.x rd)
  | strbtImm (c u rn rd imm12) : Stores s (.strbtImm c u rn rd imm12) c false (s.wordImm false u true rn imm12) 1 (s.x rd)
  | strhReg (c p u w rn rd sbz rm) : Stores s (.strhReg c p u w rn rd sbz rm) c s.privileged (s.extraReg p u w rn rm) 2 (s.x rd)
  | strhImm (c p u w rn rd hi lo) : Stores s (.strhImm c p u w rn rd hi lo) c s.privileged (s.extraImm p u w rn hi lo) 2 (s.x rd)

/-- The doubleword transfers with their address and first register; `store` marks STRD (R296, R297). -/
inductive Doubles (s : State) : Instr → Cond → Address → Reg → Bool → Prop
  | ldrdReg (c p u w rn rd sbz rm) : Doubles s (.ldrdReg c p u w rn rd sbz rm) c (s.extraReg p u w rn rm) rd false
  | ldrdImm (c p u w rn rd hi lo) : Doubles s (.ldrdImm c p u w rn rd hi lo) c (s.extraImm p u w rn hi lo) rd false
  | strdReg (c p u w rn rd sbz rm) : Doubles s (.strdReg c p u w rn rd sbz rm) c (s.extraReg p u w rn rm) rd true
  | strdImm (c p u w rn rd hi lo) : Doubles s (.strdImm c p u w rn rd hi lo) c (s.extraImm p u w rn hi lo) rd true

/-- The Thumb loads of one register with their address, destination, width in bytes and whether they extend the sign (R476,
R501 to R505, R507, R509, R511, R513). -/
inductive ThumbLoads (s : State) : Instr → Word → LowReg → Nat → Bool → Prop
  | tLdr3 (rd imm8) :
    ThumbLoads s (.tLdr3 rd imm8) (((s.pc + 4) &&& 0xFFFFFFFC) + BitVec.ofNat 32 (4 * imm8.toNat)) rd 4 false
  | tLdr2 (rm rn rd) : ThumbLoads s (.tLdr2 rm rn rd) (s.x (lowReg rn) + s.x (lowReg rm)) rd 4 false
  | tLdrh2 (rm rn rd) : ThumbLoads s (.tLdrh2 rm rn rd) (s.x (lowReg rn) + s.x (lowReg rm)) rd 2 false
  | tLdrsh (rm rn rd) : ThumbLoads s (.tLdrsh rm rn rd) (s.x (lowReg rn) + s.x (lowReg rm)) rd 2 true
  | tLdrb2 (rm rn rd) : ThumbLoads s (.tLdrb2 rm rn rd) (s.x (lowReg rn) + s.x (lowReg rm)) rd 1 false
  | tLdrsb (rm rn rd) : ThumbLoads s (.tLdrsb rm rn rd) (s.x (lowReg rn) + s.x (lowReg rm)) rd 1 true
  | tLdr1 (imm5 rn rd) : ThumbLoads s (.tLdr1 imm5 rn rd) (s.x (lowReg rn) + BitVec.ofNat 32 (4 * imm5.toNat)) rd 4 false
  | tLdrh1 (imm5 rn rd) : ThumbLoads s (.tLdrh1 imm5 rn rd) (s.x (lowReg rn) + BitVec.ofNat 32 (2 * imm5.toNat)) rd 2 false
  | tLdrb1 (imm5 rn rd) : ThumbLoads s (.tLdrb1 imm5 rn rd) (s.x (lowReg rn) + BitVec.ofNat 32 (imm5.toNat)) rd 1 false
  | tLdr4 (rd imm8) : ThumbLoads s (.tLdr4 rd imm8) (s.x 13 + BitVec.ofNat 32 (4 * imm8.toNat)) rd 4 false

/-- The Thumb stores of one register with their address, source and width in bytes (R498 to R500, R506, R508, R510,
R512). -/
inductive ThumbStores (s : State) : Instr → Word → LowReg → Nat → Prop
  | tStr2 (rm rn rd) : ThumbStores s (.tStr2 rm rn rd) (s.x (lowReg rn) + s.x (lowReg rm)) rd 4
  | tStrh2 (rm rn rd) : ThumbStores s (.tStrh2 rm rn rd) (s.x (lowReg rn) + s.x (lowReg rm)) rd 2
  | tStrb2 (rm rn rd) : ThumbStores s (.tStrb2 rm rn rd) (s.x (lowReg rn) + s.x (lowReg rm)) rd 1
  | tStr1 (imm5 rn rd) : ThumbStores s (.tStr1 imm5 rn rd) (s.x (lowReg rn) + BitVec.ofNat 32 (4 * imm5.toNat)) rd 4
  | tStrh1 (imm5 rn rd) : ThumbStores s (.tStrh1 imm5 rn rd) (s.x (lowReg rn) + BitVec.ofNat 32 (2 * imm5.toNat)) rd 2
  | tStrb1 (imm5 rn rd) : ThumbStores s (.tStrb1 imm5 rn rd) (s.x (lowReg rn) + BitVec.ofNat 32 (imm5.toNat)) rd 1
  | tStr3 (rd imm8) : ThumbStores s (.tStr3 rd imm8) (s.x 13 + BitVec.ofNat 32 (4 * imm8.toNat)) rd 4

/-- The loads of several registers that read memory into the current bank and do not return from an exception, with their
address and list (R394, R517, R520). -/
inductive LoadsBlock (s : State) : Instr → Cond → Address → BitVec 16 → Prop
  | ldm1 (c p u w rn list) : LoadsBlock s (.ldm1 c p u w rn list) c (block p u w rn (s.x rn) list) list
  | tPop (r list) :
    LoadsBlock s (.tPop r list) .al (block false true true 13 (s.x 13) (popList r list)) (popList r list)
  | tLdmia (rn list) :
    LoadsBlock s (.tLdmia rn list) .al
      (block false true (!list.getLsbD rn.toNat) (lowReg rn) (s.x (lowReg rn)) (lowList list)) (lowList list)

/-- The stores of several registers of the current bank, with their address and list (R396, R516, R519). -/
inductive StoresBlock (s : State) : Instr → Cond → Address → BitVec 16 → Prop
  | stm1 (c p u w rn list) : StoresBlock s (.stm1 c p u w rn list) c (block p u w rn (s.x rn) list) list
  | tPush (r list) :
    StoresBlock s (.tPush r list) .al (block true false true 13 (s.x 13) (pushList r list)) (pushList r list)
  | tStmia (rn list) :
    StoresBlock s (.tStmia rn list) .al (block false true true (lowReg rn) (s.x (lowReg rn)) (lowList list)) (lowList list)

/-! ## Coprocessors -/

/-- The coprocessor instructions that hand over an operation and words of registers (R441, R442, R446, R448). -/
inductive CpSends (s : State) : Instr → Cond → CpNum → CpOp → List Word → Prop
  | cdp (c o1 crn crd cp o2 crm) : CpSends s (.cdp c o1 crn crd cp o2 crm) c cp (.cdp o1 o2 crd crn crm false) []
  | cdp2 (o1 crn crd cp o2 crm) : CpSends s (.cdp2 o1 crn crd cp o2 crm) .al cp (.cdp o1 o2 crd crn crm true) []
  | mcr (c o1 crn rd cp o2 crm) :
    CpSends s (.mcr c o1 crn rd cp o2 crm) c cp (.mcr o1 o2 crn crm false s.privileged) [s.x rd]
  | mcr2 (o1 crn rd cp o2 crm) :
    CpSends s (.mcr2 o1 crn rd cp o2 crm) .al cp (.mcr o1 o2 crn crm true s.privileged) [s.x rd]
  | mcrr (c rn rd cp opcode crm) : CpSends s (.mcrr c rn rd cp opcode crm) c cp (.mcrr opcode crm) [s.x rd, s.x rn]

/-- The coprocessor instructions that take words into registers, with those registers (R443, R447, R448). -/
inductive CpReceives (s : State) : Instr → Cond → CpNum → CpOp → List Reg → Prop
  | mrc (c o1 crn rd cp o2 crm) :
    CpReceives s (.mrc c o1 crn rd cp o2 crm) c cp (.mrc o1 o2 crn crm false s.privileged) [rd]
  | mrc2 (o1 crn rd cp o2 crm) :
    CpReceives s (.mrc2 o1 crn rd cp o2 crm) .al cp (.mrc o1 o2 crn crm true s.privileged) [rd]
  | mrrc (c rn rd cp opcode crm) : CpReceives s (.mrrc c rn rd cp opcode crm) c cp (.mrrc opcode crm) [rd, rn]

/-- LDC and STC with their operation and address; `store` marks STC (R444, R445, R448). -/
inductive CpTransfers (s : State) : Instr → Cond → CpNum → CpOp → Address → Bool → Prop
  | ldc (c p u n w rn crd cp offset8) :
    CpTransfers s (.ldc c p u n w rn crd cp offset8) c cp
      (.ldc crd n false (cpOption p w offset8)) (cpIndexed p u w rn (s.x rn) offset8) false
  | ldc2 (p u n w rn crd cp offset8) :
    CpTransfers s (.ldc2 p u n w rn crd cp offset8) .al cp
      (.ldc crd n true (cpOption p w offset8)) (cpIndexed p u w rn (s.x rn) offset8) false
  | stc (c p u n w rn crd cp offset8) :
    CpTransfers s (.stc c p u n w rn crd cp offset8) c cp
      (.stc crd n false (cpOption p w offset8)) (cpIndexed p u w rn (s.x rn) offset8) true
  | stc2 (p u n w rn crd cp offset8) :
    CpTransfers s (.stc2 p u n w rn crd cp offset8) .al cp
      (.stc crd n true (cpOption p w offset8)) (cpIndexed p u w rn (s.x rn) offset8) true

/-- A coprocessor instruction with the operation and the words it offers. -/
inductive Offers (s : State) : Instr → Cond → CpNum → CpOp → List Word → Prop
  | sends (i c cp op words) : CpSends s i c cp op words → Offers s i c cp op words
  | receives (i c cp op regs) : CpReceives s i c cp op regs → Offers s i c cp op []
  | transfers (i c cp op m store) : CpTransfers s i c cp op m store → Offers s i c cp op []

/-! ## Accesses that abort -/

/-- SWP and SWPB with their address and width in bytes (R221, R222). -/
inductive Swaps (s : State) : Instr → Cond → Word → Nat → Prop
  | swp (c rn rd sbz rm) : Swaps s (.swp c rn rd sbz rm) c (s.x rn) 4
  | swpb (c rn rd sbz rm) : Swaps s (.swpb c rn rd sbz rm) c (s.x rn) 1

/-- The instructions that read a sequence of words, with their address, the alignment they need and how many words: the block
loads, LDRD, and an accepted LDC (R296, R394, R395, R398, R444, R517, R520). -/
inductive ReadsWords (s : State) : Instr → Cond → Address → Nat → Nat → Prop
  | block (i c m list) : LoadsBlock s i c m list → ReadsWords s i c m 4 (listRegs list).length
  | ldm2 (c p u rn list) : s.spsr?.isSome = true →
    ReadsWords s (.ldm2 c p u false rn list) c (block p u false rn (s.x rn) (0#1 ++ list)) 4 (listRegs (0#1 ++ list)).length
  | ldm3 (c p u w rn list) : s.spsr?.isSome = true →
    ReadsWords s (.ldm3 c p u w rn list) c (block p u w rn (s.x rn) (1#1 ++ list)) 4 (listRegs (1#1 ++ list)).length
  | double (i c m rd) : Doubles s i c m rd false → ReadsWords s i c m 8 2
  | ldc (i c cp op m lessOne) : CpTransfers s i c cp op m false → s.accepts? cp op [] = some lessOne →
    ReadsWords s i c m 4 (lessOne.toNat + 1)

/-- The instructions that write a sequence of words, with their address, the alignment they need, how many words, and what
each word is: the block stores, STRD, and an accepted STC. Of the word of a base that is written back and not the lowest of
its list nothing is said (R297, R396, R397, R445, R516, R519). -/
inductive WritesWords (s : State) : Instr → Cond → Address → Nat → Nat → (Nat → Word → Prop) → Prop
  | block (i c m list) : StoresBlock s i c m list →
    WritesWords s i c m 4 (listRegs list).length fun k v => ∃ r, (listRegs list)[k]? = some r ∧
      (k = 0 ∨ ∀ b, m.writeBack ≠ some (r, b)) ∧ v = if r = 15 then s.pc + s.settings.storePc.value else s.x r
  | stm2 (c p u rn list) : s.spsr?.isSome = true →
    WritesWords s (.stm2 c p u false rn list) c (block p u false rn (s.x rn) list) 4 (listRegs list).length fun k v =>
      ∃ r, (listRegs list)[k]? = some r ∧ v = if r = 15 then s.pc + s.settings.storePc.value else s.xUsr r
  | double (i c m rd) : Doubles s i c m rd true →
    WritesWords s i c m 8 2 fun k v => [s.x rd, s.x (rd + 1)][k]? = some v
  | stc (i c cp op m lessOne) : CpTransfers s i c cp op m true → s.accepts? cp op [] = some lessOne →
    WritesWords s i c m 4 (lessOne.toNat + 1) fun k v => v = Config.cpWord cp op (s.cpHistory cp) k

/-- The state in which an instruction with this addressing mode takes its Data Abort: under the Base Updated Abort Model the
base holds the written-back value (R556 (e); log entry 16). -/
def State.abortedWith (s : State) (m : Address) : State :=
  if s.settings.abortModel = .baseUpdated then s.writeBack m.writeBack else s

/-- A sequence of `n` words does not pass the top of memory (R82). -/
def sequenceFits (m : Address) (unit n : Nat) : Prop :=
  (alignWord m.start).toNat + 4 * n ≤ 2 ^ 32 ∧ (unit = 8 → m.start.toNat + 8 ≤ 2 ^ 32)

/-- A sequence of words that needs this alignment is let by: it has it, or ignores the low address bits (R68, R391). -/
def State.aligned (s : State) (m : Address) (unit : Nat) : Prop :=
  m.start.toNat % unit = 0 ∨ (unit = 4 ∧ s.settings.alignFault = false)

end Sys2Proof.Machine
end

