-- ==== Sys2Proof/Certificates/Slice0/Obligations.lean ====
section
/-! DEFINITION. The statements for the provers: what the rules of spec/ say of the decoder, of each instruction, of exceptions
and of the machine as a whole. -/

open Sys2Proof Sys2Proof.Machine

/-! ## Encoding -/

/-- Decoding the encoding of a well-formed instruction gives it back (R101, R461). -/
def Obligations.DecodingUndoesEncoding : Prop := ∀ i : Instr, i.wf = true → decode (encode i) = i

/-- Encoding what any word or halfword decodes to gives it back: the decoder drops no bit (R100, R101, R461). -/
def Obligations.EncodingUndoesDecoding : Prop := ∀ e : Encoding, encode (decode e) = e

/-- Words written out from the layouts of R110 to R143 and of the Thumb rules decode to the instruction they stand
for. -/
def Obligations.WrittenWordsDecode : Prop :=
  decode (.arm 0b11110101110100011111000000000100) = .pldImm true 1 4 ∧
  decode (.arm 0b11100001011011110000111100010001) = .clz .al 15 0 15 1 ∧
  decode (.arm 0b11100001000000100000000010010001) = .swp .al 2 0 0 1 ∧
  decode (.arm 0b11100001000000100000000001010001) = .qadd .al 2 0 0 1 ∧
  decode (.arm 0b11100000100000010000001110010010) = .umull .al false 1 0 3 2 ∧
  decode (.arm 0b11100001011000000000001010100001) = .smulxy .al 0 0 2 false true 1 ∧
  decode (.arm 0b11100001001010011111000000000001) = .msrReg .al false 0b1001 15 0 0 1 ∧
  decode (.arm 0b11100001100001000010000011010101) = .ldrdReg .al true true false 4 2 0 5 ∧
  decode (.arm 0b11100010100011110000000000001000) = .addImm .al false 15 0 0 8 ∧
  decode (.arm 0b11100101100100010000000000000100) = .ldrImm .al true true false 1 0 4 ∧
  decode (.arm 0b11101000101111011000000000010000) = .ldm1 .al false true true 13 0x8010 ∧
  decode (.arm 0b11101011111111111111111111111100) = .bl .al 0xFFFFFC ∧
  decode (.arm 0b11101110000100110010011110100100) = .cdp .al 1 3 2 7 5 4 ∧
  decode (.arm 0b11100110000000000000000000010000) = .undefMedia .al 0 0 ∧
  decode (.thumb 0b0001100010001000) = .tAdd3 2 1 0 ∧
  decode (.thumb 0b0110111111001000) = .tLdr1 31 1 0 ∧
  decode (.thumb 0b1011110100010000) = .tPop true 0x10 ∧
  decode (.thumb 0b1101000011111110) = .tB1 .eq 0xFE

/-! ## Conditions and words without a meaning -/

/-- A word that is UNPREDICTABLE by its bits alone has no meaning, whatever its condition and the state (R171, D3). -/
def Obligations.UnpredictableWordsAreRefused : Prop :=
  ∀ (i : Instr) (s : State), i.wf = false → exec i s = .refused .unpredictableEncoding

/-- An instruction whose condition fails, an Undefined one too, only advances the pc (R170 item 6, R521). -/
def Obligations.FailedConditionOnlyAdvances : Prop :=
  (∀ (w : Word) (c : Cond) (s : State), Cond.ofBits? (w.extractLsb' 28 4) = some c → Cond.holds c s.cpsr = false →
    (decodeArm w).wf = true → s.armReady → exec (decodeArm w) s = .next { s with pc := s.pc + 4 }) ∧
  ∀ (c : Cond) (imm8 : BitVec 8) (s : State), c ≠ .al → Cond.holds c s.cpsr = false → s.thumbReady →
    exec (.tB1 c imm8) s = .next { s with pc := s.pc + 2 }

/-- What each condition tests (R172): N is bit 31 of the CPSR, Z bit 30, C bit 29, V bit 28 (R30). -/
def Obligations.ConditionsTestTheFlags : Prop :=
  ∀ p : Word,
    let n := p.getLsbD 31
    let z := p.getLsbD 30
    let c := p.getLsbD 29
    let v := p.getLsbD 28
    (Cond.holds .eq p ↔ z) ∧ (Cond.holds .ne p ↔ ¬z) ∧ (Cond.holds .cs p ↔ c) ∧ (Cond.holds .cc p ↔ ¬c) ∧
    (Cond.holds .mi p ↔ n) ∧ (Cond.holds .pl p ↔ ¬n) ∧ (Cond.holds .vs p ↔ v) ∧ (Cond.holds .vc p ↔ ¬v) ∧
    (Cond.holds .hi p ↔ c ∧ ¬z) ∧ (Cond.holds .ls p ↔ ¬c ∨ z) ∧ (Cond.holds .ge p ↔ n = v) ∧
    (Cond.holds .lt p ↔ n ≠ v) ∧ (Cond.holds .gt p ↔ ¬z ∧ n = v) ∧ (Cond.holds .le p ↔ z ∨ n ≠ v) ∧
    (Cond.holds .al p ↔ True)

/-! ## The machine -/

/-- After reset (R46, R600): Supervisor mode, IRQ and FIQ masked, ARM state, the pc at the reset vector; and the state, with
the values the model chose for what the spec leaves open (log entries 1 and 2), is well formed. -/
def Obligations.ResetLeavesSupervisorModeMasked : Prop :=
  Psr.m State.reset.cpsr = 0b10011 ∧ Psr.i State.reset.cpsr = true ∧ Psr.f State.reset.cpsr = true ∧
  Psr.t State.reset.cpsr = false ∧ State.reset.pc = 0x00000000 ∧ State.reset.wf = true

/-- A well-formed state stays well formed at every step: the mode is legal, reserved status bits are zero, the pc is aligned,
memory keeps its form (R26, R35, R37). -/
def Obligations.EveryStepKeepsStatesWellFormed : Prop :=
  ∀ s t : State, s.wf = true → step s = .next t → t.wf = true

/-- No step changes a parameter of R6, and the inputs of the next boundary are the environment's (R62, D9): the model's way of
holding them, log entries 3 and 8. -/
def Obligations.NoStepChangesTheParameters : Prop :=
  ∀ s t : State, step s = .next t →
    t.settings = s.settings ∧ t.coprocs = s.coprocs ∧ t.lines = s.schedule.headD s.lines ∧
      t.schedule = s.schedule.tail

/-- When no input asks for an exception and the bytes at the pc hold an instruction, a step is its meaning (R65, R170, R460),
in the state with the inputs of the next boundary (the model's way of holding them, log entry 8). -/
def Obligations.StepRunsTheDecodedInstruction : Prop :=
  ∀ (s : State) (e : Encoding) (n v : Nat),
    s.lines.reset = false → (s.lines.fiq = false ∨ Psr.f s.cpsr = true) → (s.lines.irq = false ∨ Psr.i s.cpsr = true) →
    (match e with
      | .arm w => s.thumb = false ∧ n = 4 ∧ v = w.toNat
      | .thumb h => s.thumb = true ∧ n = 2 ∧ v = h.toNat) →
    s.pcAligned = true → s.holds s.pc n v → s.settings.aborts .fetch s.privileged n s.pc = false →
    (∀ a, bytesAt s.pc n a → a.toNat ∉ s.stored) →
    step s = exec (decode e) { s with lines := s.schedule.headD s.lines, schedule := s.schedule.tail }

/-- Every byte that a step changes is recorded as stored to, the record only grows, and a fetch of a recorded byte has no
meaning (R90, D13); the record is the model's own, log entry 5. -/
def Obligations.StoredBytesAreNotExecuted : Prop :=
  (∀ s t : State, step s = .next t →
    (∀ a, t.byte a ≠ s.byte a → a.toNat ∈ t.stored) ∧ ∀ n, n ∈ s.stored → n ∈ t.stored) ∧
  ∀ s : State, s.pending = none → s.pcAligned = true → s.settings.aborts .fetch s.privileged s.width s.pc = false →
    (∃ a, bytesAt s.pc s.width a ∧ a.toNat ∈ s.stored) → step s = .refused .selfModifiedCode

/-- A step in User mode stays in User mode and changes no banked register, no SPSR, I or F; or it is an exception's
entry, at that exception's vector, in its mode, with the User mode's status saved (R33, R553, R570). -/
def Obligations.UserModeIsLeftByExceptionsOnly : Prop :=
  ∀ s t : State, Psr.m s.cpsr = 0b10000 → step s = .next t →
    (Psr.m t.cpsr = 0b10000 ∧ Psr.i t.cpsr = Psr.i s.cpsr ∧ Psr.f t.cpsr = Psr.f s.cpsr ∧ SameSpsrs s t ∧
      ∀ r : PhysReg, 15 ≤ r.index.val → t.reg r = s.reg r) ∨
    ∃ e offset m, (e, offset, m) ∈ vectorTable ∧ Psr.m t.cpsr = m ∧ Psr.t t.cpsr = false ∧ Psr.i t.cpsr = true ∧
      t.pc = (if s.settings.hivecs then 0xFFFF0000 else 0) + BitVec.ofNat 32 offset ∧
      (e ≠ .reset → t.spsr? = some s.cpsr) ∧
      ∀ r : PhysReg, 15 ≤ r.index.val → physReg (Mode.ofBits? m) 14 ≠ some r → t.reg r = s.reg r

/-! ## Exceptions -/

/-- Entry of every exception but Reset (R541, R550). -/
def Obligations.ExceptionEntrySavesAndSwitches : Prop :=
  ∀ (e : Exception) (s : State), e ≠ .reset → Entered e s (takeException e s)

/-- The reset input is looked at first at every boundary (the model's choice, log entry 8); its entry (R46, R551, R600) sets
mode, masks, instruction set and pc; R14_svc, SPSR_svc and the flags get values that nothing here names (log entry 19), all
other registers and memory stay, and the coprocessors see the event, the model's form of what R46 leaves to them (log entry
6). -/
def Obligations.ResetEntrySetsModeAndMasks : Prop :=
  ∀ s : State,
    let t := takeException .reset s
    (s.lines.reset = true → step s = .next (takeException .reset s.nextInputs)) ∧
    Psr.m t.cpsr = 0b10011 ∧ Psr.i t.cpsr = true ∧ Psr.f t.cpsr = true ∧ Psr.t t.cpsr = false ∧
    Psr.reserved t.cpsr = Psr.reserved s.cpsr ∧ t.pc = (if s.settings.hivecs then 0xFFFF0000 else 0x00000000) ∧
    t.cpPast = .reset :: s.cpPast ∧ EntryFrame 0b10011 s t

/-- What happens at an instruction boundary without a reset before an instruction runs: FIQ before IRQ, a masked input asking
for nothing; then a fetch that the memory system aborts takes the Prefetch Abort exception (R170, R554, R557, R558). That it
does so even where a byte at the pc has been stored to is the model's choice, log entry 5, and so is the form of the inputs, of
which every step takes the next levels, log entry 8. -/
def Obligations.BoundaryEventsTakeTheirExceptions : Prop :=
  ∀ s : State,
    (s.lines.reset = false → s.lines.fiq = true → Psr.f s.cpsr = false →
      gives (step s) (Entered .fiq s.nextInputs)) ∧
    (s.lines.reset = false → (s.lines.fiq = false ∨ Psr.f s.cpsr = true) → s.lines.irq = true →
      Psr.i s.cpsr = false → gives (step s) (Entered .irq s.nextInputs)) ∧
    (s.pending = none → s.pcAligned = true → s.settings.aborts .fetch s.privileged s.width s.pc = true →
      gives (step s) (Entered .prefetchAbort s.nextInputs))

/-- SWI, BKPT and the Undefined instructions of both instruction sets take their exception (R203, R425, R430 to R433, R449,
R518, R522, R523, R528). -/
def Obligations.InstructionsRaiseTheirExceptions : Prop :=
  ∀ (i : Instr) (c : Cond) (e : Exception) (s : State), Raises i c e → i.wf = true → Cond.holds c s.cpsr = true →
    gives (exec i s) (Entered e s)

/-- The usual return instruction of R550, run right after an exception's entry, restores the status and goes back: past the
instruction for an Undefined Instruction and a Software Interrupt, to it for the others. Only the link register and the SPSR
of the exception's mode are not as before. -/
def Obligations.ReturnUndoesExceptionEntry : Prop :=
  ∀ (e : Exception) (s : State), s.wf = true → e ≠ .reset →
    let back : Word := match e with
      | .dataAbort => 8
      | _ => 4
    let skips := e = .undefined ∨ e = .softwareInterrupt
    let i := if skips then Instr.movImmShift .al true 0 15 0 .lsl 14 else .subImm .al true 14 15 0 (back.setWidth 8)
    gives (exec i (takeException e s)) fun t =>
      t.cpsr = s.cpsr ∧ t.pc = (if skips then s.pc + BitVec.ofNat 32 s.width else s.pc) ∧
      (∀ r, physReg (some e.mode) 14 ≠ some r → t.reg r = s.reg r) ∧
      (∀ m, m ≠ e.mode → t.spsrOf m = s.spsrOf m) ∧ (∀ a, t.byte a = s.byte a) ∧ t.cpPast = s.cpPast ∧ SameOutside s t

/-! ## Registers, memory and operands -/

/-- Which number names which register in which mode; a register written reads back and no other register of the bank
changes; register 15 reads two instructions ahead (R10, R22, R27). -/
def Obligations.RegisterBanksAsTabled : Prop :=
  (∀ (m m' : Mode) (i j : Reg),
    (physReg (some m) i = none ↔ i = 15) ∧
    (i ≠ 15 → (physReg (some m) i = physReg (some m') j ↔
      i = j ∧ (i.toNat < 8 ∨ m = m' ∨ (i.toNat < 13 ∧ m ≠ .fiq ∧ m' ≠ .fiq) ∨
        ((m = .usr ∨ m = .sys) ∧ (m' = .usr ∨ m' = .sys)))))) ∧
  ∀ (s : State) (i j : Reg) (v : Word),
    (i ≠ 15 → (s.setX i v).x i = v ∧ (j ≠ i → (s.setX i v).x j = s.x j)) ∧
    s.x 15 = s.pc + (if s.thumb then 4 else 8)

/-- A word stored at an aligned address, read back as bytes, halfwords and a word in either byte order, and no other byte
touched (R63, R64, R66). -/
def Obligations.MixedWidthAccessesAgree : Prop :=
  ∀ (s t : State) (privileged : Bool) (a v : Word), lowTwo a = 0 → s.writeWord privileged a v = some t →
    t.word a = some v ∧ t.holds a 4 v.toNat ∧
    (s.settings.bigend = false → t.byte a = some (v.extractLsb' 0 8) ∧ t.byte (a + 3) = some (v.extractLsb' 24 8) ∧
      t.half a = some (v.extractLsb' 0 16) ∧ t.half (a + 2) = some (v.extractLsb' 16 16)) ∧
    (s.settings.bigend = true → t.byte a = some (v.extractLsb' 24 8) ∧ t.byte (a + 3) = some (v.extractLsb' 0 8) ∧
      t.half a = some (v.extractLsb' 16 16) ∧ t.half (a + 2) = some (v.extractLsb' 0 16)) ∧
    ∀ b, ¬bytesAt a 4 b → t.byte b = s.byte b

/-- The rotated immediate (R176); and the shift by an immediate (R177 to R180), in arithmetic: amount 0 means no shift, a
shift by 32, and RRX. -/
def Obligations.ImmediateOperandsCompute : Prop :=
  (∀ (rotate : BitVec 4) (imm8 : BitVec 8) (c : Bool),
    let o := immOperand rotate imm8 c
    (∀ i, i < 32 → o.value.getLsbD i = imm8.getLsbD ((i + 2 * rotate.toNat) % 32)) ∧
    o.carry = if rotate = 0 then c else o.value.getLsbD 31) ∧
  ∀ (v : Word) (n : BitVec 5) (c : Bool),
    let k := n.toNat
    let k32 := if k = 0 then 32 else k
    (shiftByImm .lsl v n c =
      if k = 0 then ⟨v, c⟩ else ⟨BitVec.ofNat 32 (v.toNat * 2 ^ k), decide (v.toNat * 2 ^ k / 2 ^ 32 % 2 = 1)⟩) ∧
    shiftByImm .lsr v n c = ⟨BitVec.ofNat 32 (v.toNat / 2 ^ k32), decide (v.toNat / 2 ^ (k32 - 1) % 2 = 1)⟩ ∧
    shiftByImm .asr v n c =
      ⟨BitVec.ofInt 32 (v.toInt.fdiv (2 ^ k32)), decide (v.toInt.fdiv (2 ^ (k32 - 1)) % 2 = 1)⟩ ∧
    (k = 0 → shiftByImm .ror v n c =
      ⟨BitVec.ofNat 32 ((v.toNat + (if c then 2 ^ 32 else 0)) / 2), decide (v.toNat % 2 = 1)⟩) ∧
    (k ≠ 0 → (shiftByImm .ror v n c).carry = v.getLsbD (k - 1) ∧
      ∀ i, i < 32 → (shiftByImm .ror v n c).value.getLsbD i = v.getLsbD ((i + k) % 32))

/-- The shift by the low byte of a register (R181 to R184), in arithmetic: an amount of 0 changes nothing, and amounts of 32
and more shift everything out. -/
def Obligations.RegisterShiftsCompute : Prop :=
  ∀ (v : Word) (amount : BitVec 8) (c : Bool),
    let k := amount.toNat
    (k = 0 → ∀ sh, shiftByReg sh v amount c = ⟨v, c⟩) ∧
    (k ≠ 0 →
      shiftByReg .lsl v amount c = ⟨BitVec.ofNat 32 (v.toNat * 2 ^ k), decide (v.toNat * 2 ^ k / 2 ^ 32 % 2 = 1)⟩ ∧
      shiftByReg .lsr v amount c = ⟨BitVec.ofNat 32 (v.toNat / 2 ^ k), decide (v.toNat / 2 ^ (k - 1) % 2 = 1)⟩ ∧
      shiftByReg .asr v amount c =
        ⟨BitVec.ofInt 32 (v.toInt.fdiv (2 ^ k)), decide (v.toInt.fdiv (2 ^ (k - 1)) % 2 = 1)⟩ ∧
      (shiftByReg .ror v amount c).carry = v.getLsbD ((k + 31) % 32) ∧
      ∀ i, i < 32 → (shiftByReg .ror v amount c).value.getLsbD i = v.getLsbD ((i + k) % 32))

/-- Offset, pre-indexed and post-indexed addressing with each form's offset; coprocessor transfers have an unindexed form
too (R290, R291, R371, R372, R444). -/
def Obligations.TransferAddressesAsTabled : Prop :=
  ∀ (s : State) (p u w : Bool) (rn rm : Reg) (n : BitVec 5) (sh : Shift) (imm12 : BitVec 12) (hi lo : BitVec 4)
    (offset8 : BitVec 8),
    let base := s.x rn
    let target (offset : Word) : Word := if u then base + offset else base - offset
    let tabled (m : Address) (offset : Word) : Prop :=
      m.start = (if p then target offset else base) ∧
      m.writeBack = if p = true ∧ w = false then none else some (rn, target offset)
    tabled (s.wordReg p u w rn n sh rm) (shiftByImm sh (s.x rm) n (s.cpsr.getLsbD 29)).value ∧
    tabled (s.wordImm p u w rn imm12) (BitVec.ofNat 32 imm12.toNat) ∧
    tabled (s.extraReg p u w rn rm) (s.x rm) ∧
    tabled (s.extraImm p u w rn hi lo) (BitVec.ofNat 32 (16 * hi.toNat + lo.toNat)) ∧
    (cpIndexed p u w rn base offset8).start = (if p then target (BitVec.ofNat 32 (4 * offset8.toNat)) else base) ∧
    (cpIndexed p u w rn base offset8).writeBack =
      if w then some (rn, target (BitVec.ofNat 32 (4 * offset8.toNat))) else none

/-- Registers of a list in rising order, and where a block transfer of `n` of them starts and leaves its base (R390). -/
def Obligations.BlockAddressesAsTabled : Prop :=
  ∀ (list : BitVec 16) (p u w : Bool) (rn : Reg) (base : Word),
    let n := (listRegs list).length
    let m := block p u w rn base list
    (∀ i : Reg, i ∈ listRegs list ↔ list.getLsbD i.toNat = true) ∧
    (listRegs list).Pairwise (fun i j => i.toNat < j.toNat) ∧
    (u = true → m.start = base + (if p then 4 else 0)) ∧
    (u = false → m.start + BitVec.ofNat 32 (4 * n) = base + (if p then 0 else 4)) ∧
    m.writeBack = if w then some (rn, if u then base + BitVec.ofNat 32 (4 * n) else base - BitVec.ofNat 32 (4 * n))
      else none

/-! ## Data processing -/

/-- The data-processing instructions with a destination other than the pc, in all three forms: result, flags, and nothing
else (R321, R322, R330 to R337, R342 to R345, R360). -/
def Obligations.DataProcessingWritesResultAndFlags : Prop :=
  ∀ (op : DpOp) (f : DpForm) (c : Cond) (sf : Bool) (rn rd : Reg) (s : State),
    (op.instr c sf rn rd f).wf = true → Cond.holds c s.cpsr = true → rd ≠ 15 → s.armReady →
    gives (exec (op.instr c sf rn rd f) s) fun t =>
      t.x rd = (op.calcIn s rn f).result ∧ t.pc = s.pc + 4 ∧ (sf = true → (op.calcIn s rn f).FlagsIn s t) ∧
      SameBut [s.phys rd] (if sf then nzcvBits else 0) noBytes s t

/-- TST, TEQ, CMP and CMN set the flags and nothing else (R322, R338 to R341). -/
def Obligations.ComparesSetFlagsAlone : Prop :=
  ∀ (op : DpOp) (f : DpForm) (c : Cond) (rn : Reg) (s : State) (i : Instr),
    compareInstr c rn op f = some i → i.wf = true → Cond.holds c s.cpsr = true → s.armReady →
    gives (exec i s) fun t =>
      t.pc = s.pc + 4 ∧ (op.calcIn s rn f).FlagsIn s t ∧ SameBut [] nzcvBits noBytes s t

/-- Data processing to the pc without S: a branch to a word-aligned result, UNPREDICTABLE otherwise (R28, R322). -/
def Obligations.DataProcessingBranchesThroughThePc : Prop :=
  ∀ (op : DpOp) (f : DpForm) (c : Cond) (rn : Reg) (s : State),
    (op.instr c false rn 15 f).wf = true → Cond.holds c s.cpsr = true →
    exec (op.instr c false rn 15 f) s =
      if (op.calcIn s rn f).result.toNat % 4 = 0 then .next { s with pc := (op.calcIn s rn f).result }
      else .refused .unpredictableTarget

/-- Data processing to the pc with S: the CPSR is loaded from the SPSR, and the result, cleared in its low bits as the
restored T says, becomes the pc; without an SPSR, or with an illegal restored mode, UNPREDICTABLE (R323). -/
def Obligations.DataProcessingReturnsFromExceptions : Prop :=
  ∀ (op : DpOp) (f : DpForm) (c : Cond) (rn : Reg) (s : State),
    (op.instr c true rn 15 f).wf = true → Cond.holds c s.cpsr = true →
    (∀ p, s.spsr? = some p → (Mode.ofBits? (Psr.m p)).isSome = true →
      exec (op.instr c true rn 15 f) s =
        .next { s with
          cpsr := p
          pc := (op.calcIn s rn f).result &&& (if p.getLsbD 5 then 0xFFFFFFFE else 0xFFFFFFFC) }) ∧
    (∀ p, s.spsr? = some p → (Mode.ofBits? (Psr.m p)).isSome = false →
      exec (op.instr c true rn 15 f) s = .refused .illegalMode) ∧
    (s.spsr? = none → exec (op.instr c true rn 15 f) s = .refused .noSpsr)

/-- CLZ counts the zeros above the highest 1 bit (R201). -/
def Obligations.ClzCountsLeadingZeros : Prop :=
  ∀ (c : Cond) (rd rm : Reg) (s : State), (Instr.clz c 15 rd 15 rm).wf = true → Cond.holds c s.cpsr = true →
    s.armReady →
    gives (exec (.clz c 15 rd 15 rm) s) fun t =>
      (t.x rd).toNat ≤ 32 ∧ (∀ k, k < (t.x rd).toNat → (s.x rm).getLsbD (31 - k) = false) ∧
      ((t.x rd).toNat < 32 → (s.x rm).getLsbD (31 - (t.x rd).toNat) = true) ∧
      t.pc = s.pc + 4 ∧ SameBut [s.phys rd] 0 noBytes s t

/-- PLD does nothing (R200, D16). -/
def Obligations.PreloadOnlyAdvances : Prop :=
  ∀ s : State, s.armReady →
    (∀ u rn imm12, exec (.pldImm u rn imm12) s = .next { s with pc := s.pc + 4 }) ∧
    ∀ u rn n sh rm, rm ≠ 15 → exec (.pldReg u rn n sh rm) s = .next { s with pc := s.pc + 4 }

/-! ## Branches -/

/-- B, BL and BLX (immediate) in ARM state: target, link and T; a target past either end of memory is UNPREDICTABLE (R29,
R420 to R422). -/
def Obligations.ArmBranchesReachTheirTargets : Prop :=
  ∀ (c : Cond) (h : Bool) (offset24 : BitVec 24) (s : State), Cond.holds c s.cpsr = true → s.thumb = false →
    let target : Int := s.pc.toNat + 8 + 4 * offset24.toInt
    let inside : Int → Prop := fun t => 0 ≤ t ∧ t < 2 ^ 32
    (inside target → exec (.b c offset24) s = .next { s with pc := BitVec.ofInt 32 target }) ∧
    (inside target → gives (exec (.bl c offset24) s) fun t =>
      t.x 14 = s.pc + 4 ∧ t.pc = BitVec.ofInt 32 target ∧ SameBut [s.phys 14] 0 noBytes s t) ∧
    (inside (target + 2 * bit h) → gives (exec (.blxImm h offset24) s) fun t =>
      t.x 14 = s.pc + 4 ∧ t.thumb = true ∧ t.pc = BitVec.ofInt 32 (target + 2 * bit h) ∧
      SameBut [s.phys 14] tBit noBytes s t) ∧
    (¬inside target →
      exec (.b c offset24) s = .refused .addressWrap ∧ exec (.bl c offset24) s = .refused .addressWrap) ∧
    (¬inside (target + 2 * bit h) → exec (.blxImm h offset24) s = .refused .addressWrap)

/-- BX and BLX with a register, in both instruction sets: bit 0 of the target becomes T; BLX links; a target with bits [1:0]
= 10 is UNPREDICTABLE (R204, R205, R478, R479). -/
def Obligations.BranchExchangeSwitchesInstructionSet : Prop :=
  ∀ (c : Cond) (rm : Reg) (h2 : Bool) (r : LowReg) (s : State),
    let high := highReg h2 r
    let goes (v : Word) (t : State) : Prop := t.thumb = v.getLsbD 0 ∧ t.pc = v &&& 0xFFFFFFFE
    (s.thumb = false → Cond.holds c s.cpsr = true → (s.x rm).extractLsb' 0 2 ≠ 0b10 →
      gives (exec (.bx c 0xFFF rm) s) (fun t => goes (s.x rm) t ∧ SameBut [] tBit noBytes s t) ∧
      (rm ≠ 15 → gives (exec (.blxReg c 0xFFF rm) s) fun t =>
        t.x 14 = s.pc + 4 ∧ goes (s.x rm) t ∧ SameBut [s.phys 14] tBit noBytes s t)) ∧
    (s.thumb = true → (s.x high).extractLsb' 0 2 ≠ 0b10 →
      gives (exec (.tBx h2 r 0) s) (fun t => goes (s.x high) t ∧ SameBut [] tBit noBytes s t) ∧
      (high ≠ 15 → gives (exec (.tBlx2 h2 r 0) s) fun t =>
        t.x 14 = (s.pc + 2) ||| 1 ∧ goes (s.x high) t ∧ SameBut [s.phys 14] tBit noBytes s t)) ∧
    ((s.x rm).extractLsb' 0 2 = 0b10 → Cond.holds c s.cpsr = true →
      exec (.bx c 0xFFF rm) s = .refused .unpredictableTarget ∧
      (rm ≠ 15 → exec (.blxReg c 0xFFF rm) s = .refused .unpredictableTarget)) ∧
    ((s.x high).extractLsb' 0 2 = 0b10 →
      exec (.tBx h2 r 0) s = .refused .unpredictableTarget ∧
      (high ≠ 15 → exec (.tBlx2 h2 r 0) s = .refused .unpredictableTarget))

/-- The Thumb branches B (1), when its condition passes, and B (2) (R29, R521, R524). -/
def Obligations.ThumbBranchesReachTheirTargets : Prop :=
  ∀ (c : Cond) (imm8 : BitVec 8) (imm11 : BitVec 11) (s : State), c ≠ .al → s.thumb = true →
    let near : Int := s.pc.toNat + 4 + 2 * imm8.toInt
    let far : Int := s.pc.toNat + 4 + 2 * imm11.toInt
    let go (t : Int) : Result :=
      if 0 ≤ t ∧ t < 2 ^ 32 then .next { s with pc := BitVec.ofInt 32 t } else .refused .addressWrap
    (Cond.holds c s.cpsr = true → exec (.tB1 c imm8) s = go near) ∧ exec (.tB2 imm11) s = go far

/-- The prefix and the suffixes of BL and BLX in Thumb state (R525 to R527). After a prefix the target is the exact sum of the
two halves, UNPREDICTABLE past either end of memory (R29); that a suffix with any other link counts from the link, and that the
BL suffix clears bit 0 of its target (R26), is the model's reading, log entry 12. -/
def Obligations.ThumbCallHalvesLinkAndBranch : Prop :=
  ∀ (offset11 : BitVec 11) (high : BitVec 10) (s : State), s.thumb = true →
    let bl (target : Int) : Prop :=
      if 0 ≤ target ∧ target < 2 ^ 32 then
        gives (exec (.tBlSuffix offset11) s) fun t =>
          t.x 14 = (s.pc + 2) ||| 1 ∧ t.pc = BitVec.ofInt 32 target &&& 0xFFFFFFFE ∧ SameBut [s.phys 14] 0 noBytes s t
      else exec (.tBlSuffix offset11) s = .refused .addressWrap
    let blx (target : Int) : Prop :=
      if 0 ≤ target ∧ target < 2 ^ 32 then
        gives (exec (.tBlx1Suffix high) s) fun t =>
          t.x 14 = (s.pc + 2) ||| 1 ∧ t.pc = BitVec.ofInt 32 target &&& 0xFFFFFFFC ∧ t.thumb = false ∧
          SameBut [s.phys 14] tBit noBytes s t
      else exec (.tBlx1Suffix high) s = .refused .addressWrap
    let leaves (before : BitVec 11) : Prop := s.x 14 = s.pc + 2 + BitVec.ofInt 32 (before.toInt * 2 ^ 12)
    (s.hasRoom → gives (exec (.tBlPrefix offset11) s) fun t =>
      t.x 14 = s.pc + 4 + BitVec.ofInt 32 (offset11.toInt * 2 ^ 12) ∧ t.pc = s.pc + 2 ∧
      SameBut [s.phys 14] 0 noBytes s t) ∧
    (∀ before, leaves before →
      let base : Int := s.pc.toNat + 2 + before.toInt * 2 ^ 12
      bl (base + 2 * offset11.toNat) ∧ blx (base + 4 * high.toNat)) ∧
    ((∀ before, ¬leaves before) →
      bl ((s.x 14).toNat + 2 * offset11.toNat) ∧ blx ((s.x 14).toNat + 4 * high.toNat))

/-! ## Multiplies and saturation -/

/-- QADD, QSUB, QDADD and QDSUB: the exact sum clamped to 32 signed bits; Q set if anything saturates, never cleared (R224 to
R228). -/
def Obligations.SaturatingArithmeticClamps : Prop :=
  ∀ (s : State) (i : Instr) (c : Cond) (rd : Reg) (sum : Int) (before : Bool),
    Saturates s i c rd sum before → i.wf = true → Cond.holds c s.cpsr = true → s.armReady →
    let clamped := max (-2 ^ 31) (min (2 ^ 31 - 1) sum)
    gives (exec i s) fun t =>
      (t.x rd).toInt = clamped ∧ (Psr.q t.cpsr = true ↔ Psr.q s.cpsr = true ∨ before = true ∨ sum ≠ clamped) ∧
      t.pc = s.pc + 4 ∧ SameBut [s.phys rd] qBit noBytes s t

/-- MUL and MLA modulo 2^32; with S, N and Z from the result, C and V kept (R240, R241, R247). -/
def Obligations.MultiplyWritesLowWord : Prop :=
  ∀ (s : State) (i : Instr) (c : Cond) (sf : Bool) (rd : Reg) (n : Nat),
    Multiplies s i c sf rd n → i.wf = true → Cond.holds c s.cpsr = true → s.armReady →
    gives (exec i s) fun t =>
      (t.x rd).toNat = n % 2 ^ 32 ∧ (sf = true → NzIn 32 (n % 2 ^ 32) s t) ∧ t.pc = s.pc + 4 ∧
      SameBut [s.phys rd] (if sf then nzcvBits else 0) noBytes s t

/-- The long multiplies and SMLAL<x><y> modulo 2^64; with S, N and Z from the 64-bit result (R242 to R245, R247,
R253). -/
def Obligations.LongMultiplyWritesPair : Prop :=
  ∀ (s : State) (i : Instr) (c : Cond) (sf : Bool) (hi lo : Reg) (n : Int),
    MultipliesLong s i c sf hi lo n → i.wf = true → Cond.holds c s.cpsr = true → s.armReady →
    gives (exec i s) fun t =>
      (t.pairNat hi lo : Int) = n % 2 ^ 64 ∧ (sf = true → NzIn 64 (n % 2 ^ 64).toNat s t) ∧ t.pc = s.pc + 4 ∧
      SameBut [s.phys hi, s.phys lo] (if sf then nzcvBits else 0) noBytes s t

/-- SMLA<x><y>, SMLAW<y>, SMULW<y> and SMUL<x><y>: the exact result modulo 2^32; Q set when an accumulation overflows, never
cleared (R248, R250 to R252, R254). -/
def Obligations.HalfwordMultipliesWriteResult : Prop :=
  ∀ (s : State) (i : Instr) (c : Cond) (rd : Reg) (n : Int) (accumulates : Bool),
    MultipliesHalves s i c rd n accumulates → i.wf = true → Cond.holds c s.cpsr = true → s.armReady →
    gives (exec i s) fun t =>
      ((t.x rd).toNat : Int) = n % 2 ^ 32 ∧
      (Psr.q t.cpsr = true ↔ Psr.q s.cpsr = true ∨ (accumulates = true ∧ (n < -2 ^ 31 ∨ 2 ^ 31 ≤ n))) ∧
      t.pc = s.pc + 4 ∧ SameBut [s.phys rd] qBit noBytes s t

/-! ## Status registers -/

/-- MRS reads the CPSR in every mode, and the SPSR where the mode has one (R36, R270). -/
def Obligations.MrsReadsStatusRegisters : Prop :=
  ∀ (c : Cond) (rd : Reg) (s : State), rd ≠ 15 → Cond.holds c s.cpsr = true → s.armReady →
    (gives (exec (.mrs c false 15 rd 0) s) fun t =>
      t.x rd = s.cpsr ∧ t.pc = s.pc + 4 ∧ SameBut [s.phys rd] 0 noBytes s t) ∧
    (∀ p, s.spsr? = some p → gives (exec (.mrs c true 15 rd 0) s) fun t =>
      t.x rd = p ∧ t.pc = s.pc + 4 ∧ SameBut [s.phys rd] 0 noBytes s t) ∧
    (s.spsr? = none → exec (.mrs c true 15 rd 0) s = .refused .noSpsr)

/-- MSR to the CPSR, both forms: of the bytes the mask selects, User mode writes N Z C V Q alone, a privileged mode I, F and
M too; reserved bits, T, or an illegal mode in the operand are UNPREDICTABLE (R33, R271 to R273, R570). -/
def Obligations.MsrWritesTheCpsr : Prop :=
  ∀ (c : Cond) (mask rotate : BitVec 4) (imm8 : BitVec 8) (rm : Reg) (s : State) (i : Instr) (operand : Word),
    (i = .msrImm c false mask 15 rotate imm8 ∧ operand = (imm8.setWidth 32).rotateRight (2 * rotate.toNat)) ∨
      (i = .msrReg c false mask 15 0 0 rm ∧ rm ≠ 15 ∧ operand = s.x rm) →
    i.wf = true → Cond.holds c s.cpsr = true → s.armReady →
    let selected (bits : List Nat) (t : State) : Prop :=
      ∀ k, k < 32 → t.cpsr.getLsbD k =
        if k ∈ bits ∧ mask.getLsbD (k / 8) = true then operand.getLsbD k else s.cpsr.getLsbD k
    let writes (bits : List Nat) : Prop :=
      gives (exec i s) fun t => selected bits t ∧ t = { s with cpsr := t.cpsr, pc := s.pc + 4 }
    let reserved := operand &&& 0x07FFFF00 ≠ 0
    (¬reserved → Psr.m s.cpsr = 0b10000 → writes [27, 28, 29, 30, 31]) ∧
    (¬reserved → Psr.m s.cpsr ≠ 0b10000 → operand.getLsbD 5 = false →
      (mask.getLsbD 0 = true → (Mode.ofBits? (Psr.m operand)).isSome = true) →
      writes [0, 1, 2, 3, 4, 6, 7, 27, 28, 29, 30, 31]) ∧
    (reserved → exec i s = .refused .reservedPsrBits) ∧
    (¬reserved → Psr.m s.cpsr ≠ 0b10000 → operand.getLsbD 5 = true → exec i s = .refused .msrSetsT) ∧
    (¬reserved → Psr.m s.cpsr ≠ 0b10000 → operand.getLsbD 5 = false → mask.getLsbD 0 = true →
      (Mode.ofBits? (Psr.m operand)).isSome = false → exec i s = .refused .illegalMode)

/-- MSR to the SPSR, both forms: the selected bytes of N Z C V Q, I, F, T and M; reserved bits in the operand, or a mode
without an SPSR, are UNPREDICTABLE (R36, R271 to R273). That an operand whose M names no mode is written is the model's reading
of R273 (b), log entry 17. -/
def Obligations.MsrWritesTheSpsr : Prop :=
  ∀ (c : Cond) (mask rotate : BitVec 4) (imm8 : BitVec 8) (rm : Reg) (s : State) (i : Instr) (operand : Word),
    (i = .msrImm c true mask 15 rotate imm8 ∧ operand = (imm8.setWidth 32).rotateRight (2 * rotate.toNat)) ∨
      (i = .msrReg c true mask 15 0 0 rm ∧ rm ≠ 15 ∧ operand = s.x rm) →
    i.wf = true → Cond.holds c s.cpsr = true → s.armReady →
    let reserved := operand &&& 0x07FFFF00 ≠ 0
    (reserved → exec i s = .refused .reservedPsrBits) ∧
    (∀ p m, ¬reserved → s.spsr? = some p → s.mode = some m → gives (exec i s) fun t =>
      (∃ q, t.spsr? = some q ∧ ∀ k, k < 32 → q.getLsbD k =
        if (k < 8 ∨ 27 ≤ k) ∧ mask.getLsbD (k / 8) = true then operand.getLsbD k else p.getLsbD k) ∧
      t.pc = s.pc + 4 ∧ t.cpsr = s.cpsr ∧ (∀ m', m' ≠ m → t.spsrOf m' = s.spsrOf m') ∧ (∀ r, t.reg r = s.reg r) ∧
      (∀ a, t.byte a = s.byte a) ∧ t.cpPast = s.cpPast ∧ SameOutside s t) ∧
    (¬reserved → s.spsr? = none → exec i s = .refused .noSpsr)

/-! ## Loads and stores -/

/-- SWP and SWPB: the old content to the register, the register's old content to memory (R68, R221, R222). -/
def Obligations.SwapExchangesRegisterAndMemory : Prop :=
  ∀ (c : Cond) (rn rd rm : Reg) (s : State) (v : Nat), Cond.holds c s.cpsr = true → s.armReady →
    (Instr.swp c rn rd 0 rm).wf = true →
    let a := s.x rn
    let aligned := a &&& 0xFFFFFFFC
    let admits (n : Nat) (b : Word) : Prop :=
      s.settings.aborts .read s.privileged n b = false ∧ s.settings.aborts .write s.privileged n b = false
    (a.toNat % 4 = 0 ∨ s.settings.alignFault = false → admits 4 aligned → s.holds aligned 4 v →
      gives (exec (.swp c rn rd 0 rm) s) fun t =>
        t.x rd = (BitVec.ofNat 32 v).rotateRight (8 * (a.toNat % 4)) ∧ t.holds aligned 4 (s.x rm).toNat ∧
        t.pc = s.pc + 4 ∧ SameBut [s.phys rd] 0 (bytesAt aligned 4) s t) ∧
    (admits 1 a → s.holds a 1 v →
      gives (exec (.swpb c rn rd 0 rm) s) fun t =>
        (t.x rd).toNat = v ∧ t.holds a 1 ((s.x rm).toNat % 256) ∧ t.pc = s.pc + 4 ∧
        SameBut [s.phys rd] 0 (bytesAt a 1) s t)

/-- The ARM word loads: the aligned word rotated by the low address bits, then the base; with the pc as destination, an
interworking branch (R68, R69, R375, R379). -/
def Obligations.WordLoadsRotateTheAlignedWord : Prop :=
  ∀ (s : State) (i : Instr) (c : Cond) (privileged : Bool) (m : Address) (rd : Reg) (v : Nat),
    LoadsWord s i c privileged m rd → i.wf = true → Cond.holds c s.cpsr = true → s.armReady →
    let aligned := m.start &&& 0xFFFFFFFC
    let data := (BitVec.ofNat 32 v).rotateRight (8 * (m.start.toNat % 4))
    m.start.toNat % 4 = 0 ∨ s.settings.alignFault = false →
    s.settings.aborts .read privileged 4 aligned = false → s.holds aligned 4 v →
    (rd ≠ 15 → gives (exec i s) fun t =>
      t.x rd = data ∧ BaseWritten m t ∧ t.pc = s.pc + 4 ∧ SameBut (s.phys rd :: s.basePhys m) 0 noBytes s t) ∧
    (rd = 15 → m.start.toNat % 4 = 0 → v % 4 ≠ 2 → gives (exec i s) fun t =>
      t.thumb = data.getLsbD 0 ∧ t.pc = data &&& 0xFFFFFFFE ∧ BaseWritten m t ∧
      SameBut (s.basePhys m) tBit noBytes s t) ∧
    (rd = 15 → m.start.toNat % 4 = 0 → v % 4 = 2 → exec i s = .refused .unpredictableTarget) ∧
    (rd = 15 → m.start.toNat % 4 ≠ 0 → exec i s = .refused .unpredictableAlignment)

/-- The ARM byte and halfword loads, extended with zeros or with the sign; a halfword from an odd address is UNPREDICTABLE
unless alignment is checked (R68, R293 to R295, R376, R380). -/
def Obligations.NarrowLoadsExtend : Prop :=
  ∀ (s : State) (i : Instr) (c : Cond) (privileged : Bool) (m : Address) (rd : Reg) (n : Nat) (signed : Bool) (v : Nat),
    LoadsNarrow s i c privileged m rd n signed → i.wf = true → Cond.holds c s.cpsr = true → s.armReady →
    (m.start.toNat % n = 0 → s.settings.aborts .read privileged n m.start = false → s.holds m.start n v →
      gives (exec i s) fun t =>
        t.x rd = BitVec.ofInt 32 (if signed = true ∧ 256 ^ n ≤ 2 * v then (v : Int) - 256 ^ n else v) ∧
        BaseWritten m t ∧ t.pc = s.pc + 4 ∧ SameBut (s.phys rd :: s.basePhys m) 0 noBytes s t) ∧
    (m.start.toNat % n ≠ 0 → m.start.toNat + n ≤ 2 ^ 32 → s.settings.alignFault = false →
      exec i s = .refused .unpredictableAlignment)

/-- The ARM stores of one register: its low bytes at the address, a word at the aligned address, then the base, and no other
byte (R68, R292, R377, R378, R381, R382). -/
def Obligations.StoresWriteTheirBytesAlone : Prop :=
  ∀ (s : State) (i : Instr) (c : Cond) (privileged : Bool) (m : Address) (n : Nat) (v : Word),
    Stores s i c privileged m n v → i.wf = true → Cond.holds c s.cpsr = true → s.armReady →
    let a := if n = 4 then m.start &&& 0xFFFFFFFC else m.start
    (n = 4 → m.start.toNat % 4 = 0 ∨ s.settings.alignFault = false) → (n = 2 → m.start.toNat % 2 = 0) →
    s.settings.aborts .write privileged n a = false →
    gives (exec i s) fun t =>
      t.holds a n (v.toNat % 256 ^ n) ∧ BaseWritten m t ∧ t.pc = s.pc + 4 ∧
      SameBut (s.basePhys m) 0 (bytesAt a n) s t

/-- LDRD and STRD at an address that is a multiple of 8 (R291, R296, R297). -/
def Obligations.DoublewordTransfersMoveTwoWords : Prop :=
  ∀ (s : State) (i : Instr) (c : Cond) (m : Address) (rd : Reg) (store : Bool) (v0 v1 : Word),
    Doubles s i c m rd store → i.wf = true → Cond.holds c s.cpsr = true → s.armReady → m.start.toNat % 8 = 0 →
    s.admits (if store then .write else .read) m.start 2 →
    (store = false → s.holdsWords m.start [v0, v1] → gives (exec i s) fun t =>
      t.x rd = v0 ∧ t.x (rd + 1) = v1 ∧ BaseWritten m t ∧ t.pc = s.pc + 4 ∧
      SameBut ([s.phys rd, s.phys (rd + 1)] ++ s.basePhys m) 0 noBytes s t) ∧
    (store = true → gives (exec i s) fun t =>
      t.holdsWords m.start [s.x rd, s.x (rd + 1)] ∧ BaseWritten m t ∧ t.pc = s.pc + 4 ∧
      SameBut (s.basePhys m) 0 (bytesAt m.start 8) s t)

/-- A misaligned access that `ALIGN_FAULT` checks takes the Data Abort exception, in every form of both instruction sets that
R68 marks misaligned; nothing else has changed, but for the base under the Base Updated Abort Model (R70, R391, R462, R556,
log entry 16). LDR to the pc is one of the forms: its unaligned address is UNPREDICTABLE by the corner case of R375, which would
win by R561, but entry U8 has the Data Abort for it under `ALIGN_FAULT`. For the Thumb block transfers this is the model's
reading, log entry 14. -/
def Obligations.AlignmentFaultsAbort : Prop :=
  ∀ (s : State) (i : Instr) (c : Cond) (m : Address), s.settings.alignFault = true → i.wf = true →
    Cond.holds c s.cpsr = true →
    let aborts : Prop := gives (exec i s) (Entered .dataAbort (s.abortedWith m))
    (∀ privileged rd, LoadsWord s i c privileged m rd → m.start.toNat % 4 ≠ 0 → aborts) ∧
    (∀ privileged rd n signed, LoadsNarrow s i c privileged m rd n signed → m.start.toNat % n ≠ 0 →
      m.start.toNat + n ≤ 2 ^ 32 → aborts) ∧
    (∀ privileged n v, Stores s i c privileged m n v → m.start.toNat % n ≠ 0 →
      n = 4 ∨ m.start.toNat + n ≤ 2 ^ 32 → aborts) ∧
    (∀ a rd n signed, ThumbLoads s i a rd n signed → a.toNat % n ≠ 0 → a.toNat + n ≤ 2 ^ 32 →
      gives (exec i s) (Entered .dataAbort s)) ∧
    (∀ a rd n, ThumbStores s i a rd n → a.toNat % n ≠ 0 → a.toNat + n ≤ 2 ^ 32 →
      gives (exec i s) (Entered .dataAbort s)) ∧
    (∀ a, Swaps s i c a 4 → a.toNat % 4 ≠ 0 → gives (exec i s) (Entered .dataAbort s)) ∧
    (∀ unit n, ReadsWords s i c m unit n → m.start.toNat % unit ≠ 0 → sequenceFits m unit n → aborts) ∧
    (∀ unit n stored, WritesWords s i c m unit n stored → m.start.toNat % unit ≠ 0 → sequenceFits m unit n → aborts)

/-- An access that the memory system aborts takes the Data Abort exception, in every form of both instruction sets (R81, R221,
R391, R556, R561). No destination register, pc or status is loaded and nothing goes to a coprocessor (for loads of several
registers the spec's decision D6, log entry 24); the words of a sequence below the aborted one are stored, and nothing else is;
the base is written under the Base Updated Abort Model alone, in the mode before the entry (log entry 16). A misaligned Thumb
access aborts at the aligned address, the model's choice, log entry 11. -/
def Obligations.AbortedTransfersTakeDataAbort : Prop :=
  ∀ (s : State) (i : Instr) (c : Cond) (m : Address), i.wf = true → Cond.holds c s.cpsr = true →
    let aborts : Prop := gives (exec i s) (Entered .dataAbort (s.abortedWith m))
    let refuses (kind : AccessKind) (privileged : Bool) (n : Nat) (a : Word) : Prop :=
      s.settings.aborts kind privileged n a = true
    let word (k : Nat) : Word := alignWord (m.start + BitVec.ofNat 32 (4 * k))
    (∀ privileged rd, LoadsWord s i c privileged m rd →
      m.start.toNat % 4 = 0 ∨ (s.settings.alignFault = false ∧ rd ≠ 15) →
      refuses .read privileged 4 (m.start &&& 0xFFFFFFFC) → aborts) ∧
    (∀ privileged rd n signed, LoadsNarrow s i c privileged m rd n signed → m.start.toNat % n = 0 →
      refuses .read privileged n m.start → aborts) ∧
    (∀ privileged n v, Stores s i c privileged m n v → n ≠ 4 → m.start.toNat % n = 0 →
      refuses .write privileged n m.start → aborts) ∧
    (∀ privileged v, Stores s i c privileged m 4 v → m.start.toNat % 4 = 0 ∨ s.settings.alignFault = false →
      refuses .write privileged 4 (m.start &&& 0xFFFFFFFC) → aborts) ∧
    (∀ a rd n, s.thumb = true → a.toNat % n = 0 ∨ (s.settings.alignFault = false ∧ a.toNat + n ≤ 2 ^ 32) →
      let aligned := a - BitVec.ofNat 32 (a.toNat % n)
      (∀ signed, ThumbLoads s i a rd n signed → refuses .read s.privileged n aligned →
        gives (exec i s) (Entered .dataAbort s)) ∧
      (ThumbStores s i a rd n → refuses .write s.privileged n aligned → gives (exec i s) (Entered .dataAbort s))) ∧
    (∀ a n, Swaps s i c a n → n = 1 ∨ a.toNat % 4 = 0 ∨ s.settings.alignFault = false →
      let b := if n = 4 then a &&& 0xFFFFFFFC else a
      refuses .read s.privileged n b ∨
        (¬refuses .read s.privileged n b ∧ (∃ v, s.holds b n v) ∧ refuses .write s.privileged n b) →
      gives (exec i s) (Entered .dataAbort s)) ∧
    (∀ unit n vs, ReadsWords s i c m unit n → sequenceFits m unit n → s.aligned m unit → vs.length < n →
      s.admits .read m.start vs.length → s.holdsWords m.start vs → refuses .read s.privileged 4 (word vs.length) →
      aborts) ∧
    (∀ unit n k stored, WritesWords s i c m unit n stored → sequenceFits m unit n → s.aligned m unit → k < n →
      s.admits .write m.start k → refuses .write s.privileged 4 (word k) →
      ∃ u, (∀ j v, j < k → stored j v → u.holds (alignWord m.start + BitVec.ofNat 32 (4 * j)) 4 v.toNat) ∧ u.pc = s.pc ∧
        SameBut [] 0 (bytesAt (alignWord m.start) (4 * k)) s u ∧
        gives (exec i s) (Entered .dataAbort (u.abortedWith m)))

/-! ## Block transfers -/

/-- LDM (1), POP and LDMIA: each listed register gets its word, then the base; with the pc in the list, an interworking
branch (R390, R391, R394, R517, R520). -/
def Obligations.BlockLoadsFillTheirRegisters : Prop :=
  ∀ (s : State) (i : Instr) (c : Cond) (m : Address) (list : BitVec 16) (vs : List Word),
    LoadsBlock s i c m list → i.wf = true → Cond.holds c s.cpsr = true → s.readyFor i →
    vs.length = (listRegs list).length → s.blockOk m.start vs.length → s.admits .read m.start vs.length →
    s.holdsWords m.start vs →
    let filled (t : State) : Prop :=
      (∀ (k : Nat) r v, (listRegs list)[k]? = some r → r ≠ 15 → vs[k]? = some v → t.x r = v) ∧ BaseWritten m t
    let regs := (listRegs list).map s.phys ++ s.basePhys m
    (list.getLsbD 15 = false → gives (exec i s) fun t =>
      filled t ∧ t.pc = s.nextPc ∧ SameBut regs 0 noBytes s t) ∧
    ∀ v, list.getLsbD 15 = true → vs.getLast? = some v →
      (v.extractLsb' 0 2 ≠ 0b10 → gives (exec i s) fun t =>
        filled t ∧ t.thumb = v.getLsbD 0 ∧ t.pc = v &&& 0xFFFFFFFE ∧ SameBut regs tBit noBytes s t) ∧
      (v.extractLsb' 0 2 = 0b10 → exec i s = .refused .unpredictableTarget)

/-- STM (1), PUSH and STMIA: each listed register at its word, all read before the base is written; no claim on the word of a
base that is written back and not the lowest of the list (R390, R391, R396, R516, R519). -/
def Obligations.BlockStoresWriteTheirWordsAlone : Prop :=
  ∀ (s : State) (i : Instr) (c : Cond) (m : Address) (list : BitVec 16),
    StoresBlock s i c m list → i.wf = true → Cond.holds c s.cpsr = true → s.readyFor i →
    let n := (listRegs list).length
    s.blockOk m.start n → s.admits .write m.start n →
    gives (exec i s) fun t =>
      (∀ (k : Nat) r, (listRegs list)[k]? = some r → (k = 0 ∨ ∀ v, m.writeBack ≠ some (r, v)) →
        t.holds (alignWord m.start + BitVec.ofNat 32 (4 * k)) 4
          (if r = 15 then s.pc + s.settings.storePc.value else s.x r).toNat) ∧
      BaseWritten m t ∧ t.pc = s.nextPc ∧ SameBut (s.basePhys m) 0 (bytesAt (alignWord m.start) (4 * n)) s t

/-- LDM (2) and STM (2) move registers of the User bank; LDM (3) loads the current bank and returns from the exception; none
exists in User and System mode (R23, R395, R397, R398). -/
def Obligations.UserBankTransfersAndReturns : Prop :=
  ∀ (s : State) (c : Cond) (p u w : Bool) (rn : Reg) (list : BitVec 15) (full : BitVec 16) (vs : List Word),
    Cond.holds c s.cpsr = true → s.armReady →
    (s.spsr? = none →
      ((Instr.ldm2 c p u false rn list).wf = true → exec (.ldm2 c p u false rn list) s = .refused .noSpsr) ∧
      ((Instr.ldm3 c p u w rn list).wf = true → exec (.ldm3 c p u w rn list) s = .refused .noSpsr) ∧
      ((Instr.stm2 c p u false rn full).wf = true → exec (.stm2 c p u false rn full) s = .refused .noSpsr)) ∧
    ∀ status, s.spsr? = some status →
      (let m := block p u false rn (s.x rn) (0#1 ++ list)
        let regs := listRegs (0#1 ++ list)
        (Instr.ldm2 c p u false rn list).wf = true → vs.length = regs.length → s.blockOk m.start vs.length →
        s.admits .read m.start vs.length → s.holdsWords m.start vs →
        gives (exec (.ldm2 c p u false rn list) s) fun t =>
          (∀ (k : Nat) r v, regs[k]? = some r → vs[k]? = some v → t.xUsr r = v) ∧ t.pc = s.pc + 4 ∧
          SameBut (regs.map (physReg (some .usr))) 0 noBytes s t) ∧
      (let m := block p u w rn (s.x rn) (1#1 ++ list)
        let regs := listRegs (1#1 ++ list)
        (Instr.ldm3 c p u w rn list).wf = true → vs.length = regs.length → s.blockOk m.start vs.length →
        s.admits .read m.start vs.length → s.holdsWords m.start vs → (Mode.ofBits? (Psr.m status)).isSome = true →
        gives (exec (.ldm3 c p u w rn list) s) fun t =>
          (∀ (k : Nat) r v q, regs[k]? = some r → vs[k]? = some v → s.phys r = some q → t.reg q = v) ∧
          (∀ b v q, m.writeBack = some (b, v) → s.phys b = some q → t.reg q = v) ∧
          t.cpsr = status ∧
          (∀ v, vs.getLast? = some v → t.pc = v &&& (if status.getLsbD 5 then 0xFFFFFFFE else 0xFFFFFFFC)) ∧
          SameBut (regs.map s.phys ++ s.basePhys m) 0xFFFFFFFF noBytes s t) ∧
      (let m := block p u false rn (s.x rn) full
        let regs := listRegs full
        (Instr.stm2 c p u false rn full).wf = true → s.blockOk m.start regs.length →
        s.admits .write m.start regs.length →
        gives (exec (.stm2 c p u false rn full) s) fun t =>
          (∀ (k : Nat) r, regs[k]? = some r → t.holds (alignWord m.start + BitVec.ofNat 32 (4 * k)) 4
            (if r = 15 then s.pc + s.settings.storePc.value else s.xUsr r).toNat) ∧
          t.pc = s.pc + 4 ∧ SameBut [] 0 (bytesAt (alignWord m.start) (4 * regs.length)) s t)

/-! ## Coprocessors -/

/-- A coprocessor instruction that no coprocessor accepts takes the Undefined Instruction exception: no line names its
operation, or the coprocessor rejects it for its words or its own state (R440, D7); the lines are the model's form of the
parameter, log entry 6. -/
def Obligations.RejectedCoprocessorInstructionsTrap : Prop :=
  ∀ (s : State) (i : Instr) (c : Cond) (cp : CpNum) (op : CpOp) (words : List Word), Offers s i c cp op words →
    i.wf = true → Cond.holds c s.cpsr = true →
    (∀ r, r ∈ s.coprocs → r.cp = cp → r.op = op →
      r.answer = .decides ∧ Config.cpReply cp op words (s.cpHistory cp) = none) →
    gives (exec i s) (Entered .undefined s)

/-- An accepted CDP, MCR or MCRR is recorded with its words, and no register or byte changes (R440 to R442, R446, R448); the
record is the model's form of a coprocessor's state, log entry 6. -/
def Obligations.AcceptedOperationsReachTheCoprocessor : Prop :=
  ∀ (s : State) (i : Instr) (c : Cond) (cp : CpNum) (op : CpOp) (words : List Word),
    CpSends s i c cp op words → i.wf = true → Cond.holds c s.cpsr = true → s.armReady →
    (s.accepts? cp op words).isSome = true →
    exec i s = .next { s with cpPast := .took cp op words :: s.cpPast, pc := s.pc + 4 }

/-- An accepted MRC or MRRC writes the coprocessor's words to its registers, or with the pc as destination of MRC to N, Z, C
and V (R440, R443, R447, R448); that the words depend on the operations accepted before is the model's form, log entry 6. -/
def Obligations.CoprocessorWordsReachRegisters : Prop :=
  ∀ (s : State) (i : Instr) (c : Cond) (cp : CpNum) (op : CpOp) (regs : List Reg),
    CpReceives s i c cp op regs → i.wf = true → Cond.holds c s.cpsr = true → s.armReady →
    (s.accepts? cp op []).isSome = true →
    (15 ∉ regs → gives (exec i s) fun t =>
      (∀ (k : Nat) r, regs[k]? = some r → t.x r = Config.cpWord cp op (s.cpHistory cp) k) ∧ t.pc = s.pc + 4 ∧
      SameBut (regs.map s.phys) 0 noBytes s t) ∧
    (regs = [15] → gives (exec i s) fun t =>
      t.cpsr &&& nzcvBits = Config.cpWord cp op (s.cpHistory cp) 0 &&& nzcvBits ∧ t.pc = s.pc + 4 ∧
      SameBut [] nzcvBits noBytes s t)

/-- An accepted LDC hands over the words that memory holds, an accepted STC stores the words the coprocessor gives; then the
base (R391, R444, R445, R448); the record and the words given are the model's form, log entry 6. -/
def Obligations.CoprocessorTransfersMoveWords : Prop :=
  ∀ (s : State) (i : Instr) (c : Cond) (cp : CpNum) (op : CpOp) (m : Address) (store : Bool) (lessOne : BitVec 4)
    (vs : List Word),
    CpTransfers s i c cp op m store → i.wf = true → Cond.holds c s.cpsr = true → s.armReady →
    s.accepts? cp op [] = some lessOne → vs.length = lessOne.toNat + 1 → s.blockOk m.start vs.length →
    (store = false → s.admits .read m.start vs.length → s.holdsWords m.start vs → gives (exec i s) fun t =>
      t.cpPast = .took cp op vs :: s.cpPast ∧ BaseWritten m t ∧ t.pc = s.pc + 4 ∧
      SameBut (s.basePhys m) 0 noBytes s { t with cpPast := s.cpPast }) ∧
    (store = true → s.admits .write m.start vs.length → (∀ k, k < vs.length →
        vs[k]? = some (Config.cpWord cp op (s.cpHistory cp) k)) → gives (exec i s) fun t =>
      t.holdsWords m.start vs ∧ BaseWritten m t ∧ t.pc = s.pc + 4 ∧
      SameBut (s.basePhys m) 0 (bytesAt (alignWord m.start) (4 * vs.length)) s t)

/-! ## Thumb -/

/-- The Thumb instructions that calculate: result, all four flags, and nothing else (R463 to R473, R475, R484 to R489, R491 to
R493). -/
def Obligations.ThumbArithmeticSetsFlags : Prop :=
  ∀ (s : State) (i : Instr) (dest : Option LowReg) (k : Calc),
    ThumbCalc s i dest k → i.wf = true → s.thumbReady →
    gives (exec i s) fun t =>
      (∀ rd, dest = some rd → t.x (lowReg rd) = k.result) ∧ k.FlagsIn s t ∧ t.pc = s.pc + 2 ∧
      SameBut (dest.map fun rd => s.phys (lowReg rd)).toList nzcvBits noBytes s t

/-- The Thumb logical instructions, MOV (1) and MUL: result, N and Z; C and V are kept (R470, R482, R483, R490, R494 to
R497). That MUL with Rd = Rm is one of them is the model's reading of R495, log entry 31. -/
def Obligations.ThumbLogicKeepsCarryAndOverflow : Prop :=
  ∀ (s : State) (i : Instr) (dest : Option LowReg) (r : Word),
    ThumbLogic s i dest r → i.wf = true → s.thumbReady →
    gives (exec i s) fun t =>
      (∀ rd, dest = some rd → t.x (lowReg rd) = r) ∧ NzIn 32 r.toNat s t ∧ t.pc = s.pc + 2 ∧
      SameBut (dest.map fun rd => s.phys (lowReg rd)).toList nzcvBits noBytes s t

/-- The Thumb instructions that write a register and no flag; with the pc as destination they branch and stay in Thumb state
(R474, R477, R480, R481, R514, R515). -/
def Obligations.ThumbWritesWithoutFlags : Prop :=
  ∀ (s : State) (i : Instr) (rd : Reg) (v : Word),
    ThumbWrites s i rd v → i.wf = true → s.thumbReady →
    (rd ≠ 15 → gives (exec i s) fun t => t.x rd = v ∧ t.pc = s.pc + 2 ∧ SameBut [s.phys rd] 0 noBytes s t) ∧
    (rd = 15 → exec i s = .next { s with pc := v &&& 0xFFFFFFFE })

/-- The Thumb loads of one register at an aligned address (R462, R476, R501 to R505, R507, R509, R511, R513). -/
def Obligations.ThumbLoadsExtend : Prop :=
  ∀ (s : State) (i : Instr) (a : Word) (rd : LowReg) (n : Nat) (signed : Bool) (v : Nat),
    ThumbLoads s i a rd n signed → s.thumbReady → a.toNat % n = 0 →
    s.settings.aborts .read s.privileged n a = false → s.holds a n v →
    gives (exec i s) fun t =>
      t.x (lowReg rd) = BitVec.ofInt 32 (if signed = true ∧ 256 ^ n ≤ 2 * v then (v : Int) - 256 ^ n else v) ∧
      t.pc = s.pc + 2 ∧ SameBut [s.phys (lowReg rd)] 0 noBytes s t

/-- The Thumb stores of one register at an aligned address (R462, R498 to R500, R506, R508, R510, R512). -/
def Obligations.ThumbStoresWriteTheirBytesAlone : Prop :=
  ∀ (s : State) (i : Instr) (a : Word) (rd : LowReg) (n : Nat),
    ThumbStores s i a rd n → s.thumbReady → a.toNat % n = 0 →
    s.settings.aborts .write s.privileged n a = false →
    gives (exec i s) fun t =>
      t.holds a n ((s.x (lowReg rd)).toNat % 256 ^ n) ∧ t.pc = s.pc + 2 ∧ SameBut [] 0 (bytesAt a n) s t

/-- The model's choice (log entry 11, for the UNPREDICTABLE value of R462): a misaligned Thumb load or store runs; the value
loaded is free, and so is every byte from the aligned address to the last of the `n` bytes at `a` after a store; nothing else
changes. -/
def Obligations.MisalignedThumbTransfersRun : Prop :=
  ∀ (s : State) (i : Instr) (a : Word) (rd : LowReg) (n : Nat), s.thumbReady → s.settings.alignFault = false →
    a.toNat % n ≠ 0 → a.toNat + n ≤ 2 ^ 32 →
    let aligned := a - BitVec.ofNat 32 (a.toNat % n)
    (∀ signed, ThumbLoads s i a rd n signed → s.settings.aborts .read s.privileged n aligned = false →
      gives (exec i s) fun t => t.pc = s.pc + 2 ∧ SameBut [s.phys (lowReg rd)] 0 noBytes s t) ∧
    (ThumbStores s i a rd n → s.settings.aborts .write s.privileged n aligned = false →
      gives (exec i s) fun t => t.pc = s.pc + 2 ∧ SameBut [] 0 (bytesAt aligned (n + a.toNat % n)) s t)
end

