-- ==== Sys2Proof/Laws/Align.lean ====
section
/-! SUPPORT. Alignment in arithmetic: what the alignment operations and checks say about an address as a number. -/

namespace Sys2Proof.Machine

theorem lowTwo_toNat (a : Word) : (lowTwo a).toNat = a.toNat % 4 := by
  simp [lowTwo]

theorem lowTwo_eq_zero (a : Word) : lowTwo a = 0 ↔ a.toNat % 4 = 0 := by
  rw [← lowTwo_toNat]
  exact ⟨fun h => by rw [h]; rfl, fun h => BitVec.eq_of_toNat_eq h⟩

theorem getLsbD_zero_iff (a : Word) : a.getLsbD 0 = true ↔ a.toNat % 2 = 1 := by
  simp [BitVec.getLsbD, Nat.testBit_zero]

/-- A mask of ones above the lowest `n` bits clears the remainder modulo `2 ^ n`. -/
theorem and_highMask_toNat (a m : Word) (n : Nat) (h : ∀ k, k < 32 → m.getLsbD k = decide (n ≤ k)) :
    (a &&& m).toNat = a.toNat / 2 ^ n * 2 ^ n := by
  have : a &&& m = (a >>> n) <<< n := by
    apply BitVec.eq_of_getLsbD_eq
    intro k hk
    rw [BitVec.getLsbD_and, h k hk, BitVec.getLsbD_shiftLeft, BitVec.getLsbD_ushiftRight]
    by_cases hn : k < n
    · simp [hn]
    · have : n + (k - n) = k := by omega
      simp [hn, this, hk, Nat.le_of_not_lt hn]
  rw [this, BitVec.toNat_shiftLeft, BitVec.toNat_ushiftRight, Nat.shiftLeft_eq, Nat.shiftRight_eq_div_pow,
    Nat.mod_eq_of_lt (lt_of_le_of_lt (Nat.div_mul_le_self _ _) a.isLt)]

theorem alignWord_toNat (a : Word) : (alignWord a).toNat = a.toNat / 4 * 4 :=
  and_highMask_toNat a 0xFFFFFFFC 2 (by decide)

theorem alignHalf_toNat (a : Word) : (alignHalf a).toNat = a.toNat / 2 * 2 :=
  and_highMask_toNat a 0xFFFFFFFE 1 (by decide)

/-- An aligned address is its own aligned address. -/
theorem alignWord_of_lowTwo {a : Word} (h : lowTwo a = 0) : alignWord a = a := by
  apply BitVec.eq_of_toNat_eq
  have := (lowTwo_eq_zero a).mp h
  rw [alignWord_toNat]
  omega

theorem lowTwo_alignWord (a : Word) : lowTwo (alignWord a) = 0 := by
  rw [lowTwo_eq_zero, alignWord_toNat]
  omega

theorem alignHalf_getLsbD_zero (a : Word) : (alignHalf a).getLsbD 0 = false := by
  have : ¬(alignHalf a).getLsbD 0 = true := by
    rw [getLsbD_zero_iff, alignHalf_toNat]
    omega
  simpa using this

/-- Distances that are multiples of 4 keep an aligned address aligned. -/
theorem lowTwo_add {a b : Word} (ha : lowTwo a = 0) (hb : lowTwo b = 0) : lowTwo (a + b) = 0 := by
  rw [lowTwo_eq_zero] at *
  rw [BitVec.toNat_add]
  omega

/-- A multiple of 4 further on, the aligned address is that much further on. -/
theorem alignWord_add (a : Word) (k : Nat) :
    alignWord (a + BitVec.ofNat 32 (4 * k)) = alignWord a + BitVec.ofNat 32 (4 * k) := by
  apply BitVec.eq_of_toNat_eq
  simp only [alignWord_toNat, BitVec.toNat_add, BitVec.toNat_ofNat]
  omega

/-- The next word, then `k` words further on. -/
theorem word_succ (a : Word) (k : Nat) : a + 4 + BitVec.ofNat 32 (4 * k) = a + BitVec.ofNat 32 (4 * (k + 1)) := by
  rw [BitVec.add_assoc]
  congr 1
  apply BitVec.eq_of_toNat_eq
  have : (4 : Word).toNat = 4 := rfl
  simp only [BitVec.toNat_add, BitVec.toNat_ofNat, this]
  omega

theorem ror_zero (v : Word) : ror v 0 = v := by simp [ror, BitVec.rotateRight, BitVec.rotateRightAux]

theorem spansTop_eq_false (a : Word) (n : Nat) : spansTop a n = false ↔ a.toNat + n ≤ 2 ^ 32 := by
  simp [spansTop]

theorem blockWraps_eq_false (a : Word) (n : Nat) : blockWraps a n = false ↔ (alignWord a).toNat + 4 * n ≤ 2 ^ 32 := by
  simp [blockWraps]

/-- The pc is aligned to the instruction set's width. -/
theorem State.pcAligned_iff (s : State) : s.pcAligned = true ↔ s.pc.toNat % s.width = 0 := by
  simp only [State.pcAligned, State.width]
  cases s.thumb
  · simpa using lowTwo_eq_zero s.pc
  · have := getLsbD_zero_iff s.pc
    cases h : s.pc.getLsbD 0 <;> simp_all

end Sys2Proof.Machine
end

