-- ==== Sys2Proof/Laws/State.lean ====
section
/-! SUPPORT. What each update of the state leaves in each field: one lemma per field per update, so that no proof unfolds a
record update. -/

namespace Sys2Proof.Machine

/-! ## `State.setReg` -/

@[simp] theorem State.setReg_regs (s : State) (r : PhysReg) (v : Word) : (s.setReg r v).regs = s.regs.set r.index v := rfl

@[simp] theorem State.setReg_pc (s : State) (r : PhysReg) (v : Word) : (s.setReg r v).pc = s.pc := rfl

@[simp] theorem State.setReg_cpsr (s : State) (r : PhysReg) (v : Word) : (s.setReg r v).cpsr = s.cpsr := rfl

@[simp] theorem State.setReg_spsrFiq (s : State) (r : PhysReg) (v : Word) : (s.setReg r v).spsrFiq = s.spsrFiq := rfl

@[simp] theorem State.setReg_spsrIrq (s : State) (r : PhysReg) (v : Word) : (s.setReg r v).spsrIrq = s.spsrIrq := rfl

@[simp] theorem State.setReg_spsrSvc (s : State) (r : PhysReg) (v : Word) : (s.setReg r v).spsrSvc = s.spsrSvc := rfl

@[simp] theorem State.setReg_spsrAbt (s : State) (r : PhysReg) (v : Word) : (s.setReg r v).spsrAbt = s.spsrAbt := rfl

@[simp] theorem State.setReg_spsrUnd (s : State) (r : PhysReg) (v : Word) : (s.setReg r v).spsrUnd = s.spsrUnd := rfl

@[simp] theorem State.setReg_mem (s : State) (r : PhysReg) (v : Word) : (s.setReg r v).mem = s.mem := rfl

@[simp] theorem State.setReg_stored (s : State) (r : PhysReg) (v : Word) : (s.setReg r v).stored = s.stored := rfl

@[simp] theorem State.setReg_cpPast (s : State) (r : PhysReg) (v : Word) : (s.setReg r v).cpPast = s.cpPast := rfl

@[simp] theorem State.setReg_coprocs (s : State) (r : PhysReg) (v : Word) : (s.setReg r v).coprocs = s.coprocs := rfl

@[simp] theorem State.setReg_settings (s : State) (r : PhysReg) (v : Word) : (s.setReg r v).settings = s.settings := rfl

@[simp] theorem State.setReg_lines (s : State) (r : PhysReg) (v : Word) : (s.setReg r v).lines = s.lines := rfl

@[simp] theorem State.setReg_schedule (s : State) (r : PhysReg) (v : Word) : (s.setReg r v).schedule = s.schedule := rfl

@[simp] theorem State.setReg_freeCount (s : State) (r : PhysReg) (v : Word) : (s.setReg r v).freeCount = s.freeCount := rfl

@[simp] theorem State.setReg_mode (s : State) (r : PhysReg) (v : Word) :
    (s.setReg r v).mode = s.mode := rfl

@[simp] theorem State.setReg_thumb (s : State) (r : PhysReg) (v : Word) :
    (s.setReg r v).thumb = s.thumb := rfl

@[simp] theorem State.setReg_privileged (s : State) (r : PhysReg) (v : Word) :
    (s.setReg r v).privileged = s.privileged := rfl

@[simp] theorem State.setReg_width (s : State) (r : PhysReg) (v : Word) :
    (s.setReg r v).width = s.width := rfl

@[simp] theorem State.setReg_spsr (s : State) (r : PhysReg) (v : Word) :
    (s.setReg r v).spsr? = s.spsr? := rfl

@[simp] theorem State.setReg_spsrOf (s : State) (r : PhysReg) (v : Word) (m : Mode) :
    (s.setReg r v).spsrOf m = s.spsrOf m := rfl

@[simp] theorem State.setReg_byte (s : State) (r : PhysReg) (v : Word) (b : Word) :
    (s.setReg r v).byte b = s.byte b := rfl

/-! ## `State.setCpsr` -/

@[simp] theorem State.setCpsr_regs (s : State) (p : Word) : (s.setCpsr p).regs = s.regs := rfl

@[simp] theorem State.setCpsr_pc (s : State) (p : Word) : (s.setCpsr p).pc = s.pc := rfl

@[simp] theorem State.setCpsr_cpsr (s : State) (p : Word) : (s.setCpsr p).cpsr = p := rfl

@[simp] theorem State.setCpsr_spsrFiq (s : State) (p : Word) : (s.setCpsr p).spsrFiq = s.spsrFiq := rfl

@[simp] theorem State.setCpsr_spsrIrq (s : State) (p : Word) : (s.setCpsr p).spsrIrq = s.spsrIrq := rfl

@[simp] theorem State.setCpsr_spsrSvc (s : State) (p : Word) : (s.setCpsr p).spsrSvc = s.spsrSvc := rfl

@[simp] theorem State.setCpsr_spsrAbt (s : State) (p : Word) : (s.setCpsr p).spsrAbt = s.spsrAbt := rfl

@[simp] theorem State.setCpsr_spsrUnd (s : State) (p : Word) : (s.setCpsr p).spsrUnd = s.spsrUnd := rfl

@[simp] theorem State.setCpsr_mem (s : State) (p : Word) : (s.setCpsr p).mem = s.mem := rfl

@[simp] theorem State.setCpsr_stored (s : State) (p : Word) : (s.setCpsr p).stored = s.stored := rfl

@[simp] theorem State.setCpsr_cpPast (s : State) (p : Word) : (s.setCpsr p).cpPast = s.cpPast := rfl

@[simp] theorem State.setCpsr_coprocs (s : State) (p : Word) : (s.setCpsr p).coprocs = s.coprocs := rfl

@[simp] theorem State.setCpsr_settings (s : State) (p : Word) : (s.setCpsr p).settings = s.settings := rfl

@[simp] theorem State.setCpsr_lines (s : State) (p : Word) : (s.setCpsr p).lines = s.lines := rfl

@[simp] theorem State.setCpsr_schedule (s : State) (p : Word) : (s.setCpsr p).schedule = s.schedule := rfl

@[simp] theorem State.setCpsr_freeCount (s : State) (p : Word) : (s.setCpsr p).freeCount = s.freeCount := rfl

@[simp] theorem State.setCpsr_spsrOf (s : State) (p : Word) (m : Mode) :
    (s.setCpsr p).spsrOf m = s.spsrOf m := rfl

@[simp] theorem State.setCpsr_byte (s : State) (p : Word) (b : Word) :
    (s.setCpsr p).byte b = s.byte b := rfl

@[simp] theorem State.setCpsr_reg (s : State) (p : Word) (q : PhysReg) :
    (s.setCpsr p).reg q = s.reg q := rfl

/-! ## `State.setPc` -/

@[simp] theorem State.setPc_regs (s : State) (a : Word) : (s.setPc a).regs = s.regs := rfl

@[simp] theorem State.setPc_pc (s : State) (a : Word) : (s.setPc a).pc = a := rfl

@[simp] theorem State.setPc_cpsr (s : State) (a : Word) : (s.setPc a).cpsr = s.cpsr := rfl

@[simp] theorem State.setPc_spsrFiq (s : State) (a : Word) : (s.setPc a).spsrFiq = s.spsrFiq := rfl

@[simp] theorem State.setPc_spsrIrq (s : State) (a : Word) : (s.setPc a).spsrIrq = s.spsrIrq := rfl

@[simp] theorem State.setPc_spsrSvc (s : State) (a : Word) : (s.setPc a).spsrSvc = s.spsrSvc := rfl

@[simp] theorem State.setPc_spsrAbt (s : State) (a : Word) : (s.setPc a).spsrAbt = s.spsrAbt := rfl

@[simp] theorem State.setPc_spsrUnd (s : State) (a : Word) : (s.setPc a).spsrUnd = s.spsrUnd := rfl

@[simp] theorem State.setPc_mem (s : State) (a : Word) : (s.setPc a).mem = s.mem := rfl

@[simp] theorem State.setPc_stored (s : State) (a : Word) : (s.setPc a).stored = s.stored := rfl

@[simp] theorem State.setPc_cpPast (s : State) (a : Word) : (s.setPc a).cpPast = s.cpPast := rfl

@[simp] theorem State.setPc_coprocs (s : State) (a : Word) : (s.setPc a).coprocs = s.coprocs := rfl

@[simp] theorem State.setPc_settings (s : State) (a : Word) : (s.setPc a).settings = s.settings := rfl

@[simp] theorem State.setPc_lines (s : State) (a : Word) : (s.setPc a).lines = s.lines := rfl

@[simp] theorem State.setPc_schedule (s : State) (a : Word) : (s.setPc a).schedule = s.schedule := rfl

@[simp] theorem State.setPc_freeCount (s : State) (a : Word) : (s.setPc a).freeCount = s.freeCount := rfl

@[simp] theorem State.setPc_mode (s : State) (a : Word) :
    (s.setPc a).mode = s.mode := rfl

@[simp] theorem State.setPc_thumb (s : State) (a : Word) :
    (s.setPc a).thumb = s.thumb := rfl

@[simp] theorem State.setPc_privileged (s : State) (a : Word) :
    (s.setPc a).privileged = s.privileged := rfl

@[simp] theorem State.setPc_width (s : State) (a : Word) :
    (s.setPc a).width = s.width := rfl

@[simp] theorem State.setPc_spsr (s : State) (a : Word) :
    (s.setPc a).spsr? = s.spsr? := rfl

@[simp] theorem State.setPc_spsrOf (s : State) (a : Word) (m : Mode) :
    (s.setPc a).spsrOf m = s.spsrOf m := rfl

@[simp] theorem State.setPc_byte (s : State) (a : Word) (b : Word) :
    (s.setPc a).byte b = s.byte b := rfl

@[simp] theorem State.setPc_reg (s : State) (a : Word) (q : PhysReg) :
    (s.setPc a).reg q = s.reg q := rfl

/-! ## `State.useFree` -/

@[simp] theorem State.useFree_regs (s : State) (n : Nat) : (s.useFree n).regs = s.regs := rfl

@[simp] theorem State.useFree_pc (s : State) (n : Nat) : (s.useFree n).pc = s.pc := rfl

@[simp] theorem State.useFree_cpsr (s : State) (n : Nat) : (s.useFree n).cpsr = s.cpsr := rfl

@[simp] theorem State.useFree_spsrFiq (s : State) (n : Nat) : (s.useFree n).spsrFiq = s.spsrFiq := rfl

@[simp] theorem State.useFree_spsrIrq (s : State) (n : Nat) : (s.useFree n).spsrIrq = s.spsrIrq := rfl

@[simp] theorem State.useFree_spsrSvc (s : State) (n : Nat) : (s.useFree n).spsrSvc = s.spsrSvc := rfl

@[simp] theorem State.useFree_spsrAbt (s : State) (n : Nat) : (s.useFree n).spsrAbt = s.spsrAbt := rfl

@[simp] theorem State.useFree_spsrUnd (s : State) (n : Nat) : (s.useFree n).spsrUnd = s.spsrUnd := rfl

@[simp] theorem State.useFree_mem (s : State) (n : Nat) : (s.useFree n).mem = s.mem := rfl

@[simp] theorem State.useFree_stored (s : State) (n : Nat) : (s.useFree n).stored = s.stored := rfl

@[simp] theorem State.useFree_cpPast (s : State) (n : Nat) : (s.useFree n).cpPast = s.cpPast := rfl

@[simp] theorem State.useFree_coprocs (s : State) (n : Nat) : (s.useFree n).coprocs = s.coprocs := rfl

@[simp] theorem State.useFree_settings (s : State) (n : Nat) : (s.useFree n).settings = s.settings := rfl

@[simp] theorem State.useFree_lines (s : State) (n : Nat) : (s.useFree n).lines = s.lines := rfl

@[simp] theorem State.useFree_schedule (s : State) (n : Nat) : (s.useFree n).schedule = s.schedule := rfl

@[simp] theorem State.useFree_freeCount (s : State) (n : Nat) : (s.useFree n).freeCount = s.freeCount + n := rfl

@[simp] theorem State.useFree_mode (s : State) (n : Nat) :
    (s.useFree n).mode = s.mode := rfl

@[simp] theorem State.useFree_thumb (s : State) (n : Nat) :
    (s.useFree n).thumb = s.thumb := rfl

@[simp] theorem State.useFree_privileged (s : State) (n : Nat) :
    (s.useFree n).privileged = s.privileged := rfl

@[simp] theorem State.useFree_width (s : State) (n : Nat) :
    (s.useFree n).width = s.width := rfl

@[simp] theorem State.useFree_spsr (s : State) (n : Nat) :
    (s.useFree n).spsr? = s.spsr? := rfl

@[simp] theorem State.useFree_spsrOf (s : State) (n : Nat) (m : Mode) :
    (s.useFree n).spsrOf m = s.spsrOf m := rfl

@[simp] theorem State.useFree_byte (s : State) (n : Nat) (b : Word) :
    (s.useFree n).byte b = s.byte b := rfl

@[simp] theorem State.useFree_reg (s : State) (n : Nat) (q : PhysReg) :
    (s.useFree n).reg q = s.reg q := rfl

/-! ## `State.storeByte` -/

@[simp] theorem State.storeByte_regs (s : State) (a : Word) (v : Byte) : (s.storeByte a v).regs = s.regs := rfl

@[simp] theorem State.storeByte_pc (s : State) (a : Word) (v : Byte) : (s.storeByte a v).pc = s.pc := rfl

@[simp] theorem State.storeByte_cpsr (s : State) (a : Word) (v : Byte) : (s.storeByte a v).cpsr = s.cpsr := rfl

@[simp] theorem State.storeByte_spsrFiq (s : State) (a : Word) (v : Byte) : (s.storeByte a v).spsrFiq = s.spsrFiq := rfl

@[simp] theorem State.storeByte_spsrIrq (s : State) (a : Word) (v : Byte) : (s.storeByte a v).spsrIrq = s.spsrIrq := rfl

@[simp] theorem State.storeByte_spsrSvc (s : State) (a : Word) (v : Byte) : (s.storeByte a v).spsrSvc = s.spsrSvc := rfl

@[simp] theorem State.storeByte_spsrAbt (s : State) (a : Word) (v : Byte) : (s.storeByte a v).spsrAbt = s.spsrAbt := rfl

@[simp] theorem State.storeByte_spsrUnd (s : State) (a : Word) (v : Byte) : (s.storeByte a v).spsrUnd = s.spsrUnd := rfl

@[simp] theorem State.storeByte_mem (s : State) (a : Word) (v : Byte) : (s.storeByte a v).mem = Memory.write s.mem a.toNat v := rfl

@[simp] theorem State.storeByte_stored (s : State) (a : Word) (v : Byte) : (s.storeByte a v).stored = insertAddress a.toNat s.stored := rfl

@[simp] theorem State.storeByte_cpPast (s : State) (a : Word) (v : Byte) : (s.storeByte a v).cpPast = s.cpPast := rfl

@[simp] theorem State.storeByte_coprocs (s : State) (a : Word) (v : Byte) : (s.storeByte a v).coprocs = s.coprocs := rfl

@[simp] theorem State.storeByte_settings (s : State) (a : Word) (v : Byte) : (s.storeByte a v).settings = s.settings := rfl

@[simp] theorem State.storeByte_lines (s : State) (a : Word) (v : Byte) : (s.storeByte a v).lines = s.lines := rfl

@[simp] theorem State.storeByte_schedule (s : State) (a : Word) (v : Byte) : (s.storeByte a v).schedule = s.schedule := rfl

@[simp] theorem State.storeByte_freeCount (s : State) (a : Word) (v : Byte) : (s.storeByte a v).freeCount = s.freeCount := rfl

@[simp] theorem State.storeByte_mode (s : State) (a : Word) (v : Byte) :
    (s.storeByte a v).mode = s.mode := rfl

@[simp] theorem State.storeByte_thumb (s : State) (a : Word) (v : Byte) :
    (s.storeByte a v).thumb = s.thumb := rfl

@[simp] theorem State.storeByte_privileged (s : State) (a : Word) (v : Byte) :
    (s.storeByte a v).privileged = s.privileged := rfl

@[simp] theorem State.storeByte_width (s : State) (a : Word) (v : Byte) :
    (s.storeByte a v).width = s.width := rfl

@[simp] theorem State.storeByte_spsr (s : State) (a : Word) (v : Byte) :
    (s.storeByte a v).spsr? = s.spsr? := rfl

@[simp] theorem State.storeByte_spsrOf (s : State) (a : Word) (v : Byte) (m : Mode) :
    (s.storeByte a v).spsrOf m = s.spsrOf m := rfl

@[simp] theorem State.storeByte_reg (s : State) (a : Word) (v : Byte) (q : PhysReg) :
    (s.storeByte a v).reg q = s.reg q := rfl

/-! ## `State.cpTake` -/

@[simp] theorem State.cpTake_regs (s : State) (cp : CpNum) (op : CpOp) (ws : List Word) : (s.cpTake cp op ws).regs = s.regs := rfl

@[simp] theorem State.cpTake_pc (s : State) (cp : CpNum) (op : CpOp) (ws : List Word) : (s.cpTake cp op ws).pc = s.pc := rfl

@[simp] theorem State.cpTake_cpsr (s : State) (cp : CpNum) (op : CpOp) (ws : List Word) : (s.cpTake cp op ws).cpsr = s.cpsr := rfl

@[simp] theorem State.cpTake_spsrFiq (s : State) (cp : CpNum) (op : CpOp) (ws : List Word) : (s.cpTake cp op ws).spsrFiq = s.spsrFiq := rfl

@[simp] theorem State.cpTake_spsrIrq (s : State) (cp : CpNum) (op : CpOp) (ws : List Word) : (s.cpTake cp op ws).spsrIrq = s.spsrIrq := rfl

@[simp] theorem State.cpTake_spsrSvc (s : State) (cp : CpNum) (op : CpOp) (ws : List Word) : (s.cpTake cp op ws).spsrSvc = s.spsrSvc := rfl

@[simp] theorem State.cpTake_spsrAbt (s : State) (cp : CpNum) (op : CpOp) (ws : List Word) : (s.cpTake cp op ws).spsrAbt = s.spsrAbt := rfl

@[simp] theorem State.cpTake_spsrUnd (s : State) (cp : CpNum) (op : CpOp) (ws : List Word) : (s.cpTake cp op ws).spsrUnd = s.spsrUnd := rfl

@[simp] theorem State.cpTake_mem (s : State) (cp : CpNum) (op : CpOp) (ws : List Word) : (s.cpTake cp op ws).mem = s.mem := rfl

@[simp] theorem State.cpTake_stored (s : State) (cp : CpNum) (op : CpOp) (ws : List Word) : (s.cpTake cp op ws).stored = s.stored := rfl

@[simp] theorem State.cpTake_cpPast (s : State) (cp : CpNum) (op : CpOp) (ws : List Word) : (s.cpTake cp op ws).cpPast = .took cp op ws :: s.cpPast := rfl

@[simp] theorem State.cpTake_coprocs (s : State) (cp : CpNum) (op : CpOp) (ws : List Word) : (s.cpTake cp op ws).coprocs = s.coprocs := rfl

@[simp] theorem State.cpTake_settings (s : State) (cp : CpNum) (op : CpOp) (ws : List Word) : (s.cpTake cp op ws).settings = s.settings := rfl

@[simp] theorem State.cpTake_lines (s : State) (cp : CpNum) (op : CpOp) (ws : List Word) : (s.cpTake cp op ws).lines = s.lines := rfl

@[simp] theorem State.cpTake_schedule (s : State) (cp : CpNum) (op : CpOp) (ws : List Word) : (s.cpTake cp op ws).schedule = s.schedule := rfl

@[simp] theorem State.cpTake_freeCount (s : State) (cp : CpNum) (op : CpOp) (ws : List Word) : (s.cpTake cp op ws).freeCount = s.freeCount := rfl

@[simp] theorem State.cpTake_mode (s : State) (cp : CpNum) (op : CpOp) (ws : List Word) :
    (s.cpTake cp op ws).mode = s.mode := rfl

@[simp] theorem State.cpTake_thumb (s : State) (cp : CpNum) (op : CpOp) (ws : List Word) :
    (s.cpTake cp op ws).thumb = s.thumb := rfl

@[simp] theorem State.cpTake_privileged (s : State) (cp : CpNum) (op : CpOp) (ws : List Word) :
    (s.cpTake cp op ws).privileged = s.privileged := rfl

@[simp] theorem State.cpTake_width (s : State) (cp : CpNum) (op : CpOp) (ws : List Word) :
    (s.cpTake cp op ws).width = s.width := rfl

@[simp] theorem State.cpTake_spsr (s : State) (cp : CpNum) (op : CpOp) (ws : List Word) :
    (s.cpTake cp op ws).spsr? = s.spsr? := rfl

@[simp] theorem State.cpTake_spsrOf (s : State) (cp : CpNum) (op : CpOp) (ws : List Word) (m : Mode) :
    (s.cpTake cp op ws).spsrOf m = s.spsrOf m := rfl

@[simp] theorem State.cpTake_byte (s : State) (cp : CpNum) (op : CpOp) (ws : List Word) (b : Word) :
    (s.cpTake cp op ws).byte b = s.byte b := rfl

@[simp] theorem State.cpTake_reg (s : State) (cp : CpNum) (op : CpOp) (ws : List Word) (q : PhysReg) :
    (s.cpTake cp op ws).reg q = s.reg q := rfl

/-! ## `State.resetCps` -/

@[simp] theorem State.resetCps_regs (s : State) : s.resetCps.regs = s.regs := rfl

@[simp] theorem State.resetCps_pc (s : State) : s.resetCps.pc = s.pc := rfl

@[simp] theorem State.resetCps_cpsr (s : State) : s.resetCps.cpsr = s.cpsr := rfl

@[simp] theorem State.resetCps_spsrFiq (s : State) : s.resetCps.spsrFiq = s.spsrFiq := rfl

@[simp] theorem State.resetCps_spsrIrq (s : State) : s.resetCps.spsrIrq = s.spsrIrq := rfl

@[simp] theorem State.resetCps_spsrSvc (s : State) : s.resetCps.spsrSvc = s.spsrSvc := rfl

@[simp] theorem State.resetCps_spsrAbt (s : State) : s.resetCps.spsrAbt = s.spsrAbt := rfl

@[simp] theorem State.resetCps_spsrUnd (s : State) : s.resetCps.spsrUnd = s.spsrUnd := rfl

@[simp] theorem State.resetCps_mem (s : State) : s.resetCps.mem = s.mem := rfl

@[simp] theorem State.resetCps_stored (s : State) : s.resetCps.stored = s.stored := rfl

@[simp] theorem State.resetCps_cpPast (s : State) : s.resetCps.cpPast = .reset :: s.cpPast := rfl

@[simp] theorem State.resetCps_coprocs (s : State) : s.resetCps.coprocs = s.coprocs := rfl

@[simp] theorem State.resetCps_settings (s : State) : s.resetCps.settings = s.settings := rfl

@[simp] theorem State.resetCps_lines (s : State) : s.resetCps.lines = s.lines := rfl

@[simp] theorem State.resetCps_schedule (s : State) : s.resetCps.schedule = s.schedule := rfl

@[simp] theorem State.resetCps_freeCount (s : State) : s.resetCps.freeCount = s.freeCount := rfl

@[simp] theorem State.resetCps_mode (s : State) : s.resetCps.mode = s.mode := rfl

@[simp] theorem State.resetCps_thumb (s : State) : s.resetCps.thumb = s.thumb := rfl

@[simp] theorem State.resetCps_privileged (s : State) : s.resetCps.privileged = s.privileged := rfl

@[simp] theorem State.resetCps_width (s : State) : s.resetCps.width = s.width := rfl

@[simp] theorem State.resetCps_spsr (s : State) : s.resetCps.spsr? = s.spsr? := rfl

@[simp] theorem State.resetCps_spsrOf (s : State) (m : Mode) : s.resetCps.spsrOf m = s.spsrOf m := rfl

@[simp] theorem State.resetCps_byte (s : State) (b : Word) : s.resetCps.byte b = s.byte b := rfl

@[simp] theorem State.resetCps_reg (s : State) (q : PhysReg) : s.resetCps.reg q = s.reg q := rfl

/-! ## `State.setX` -/

@[simp] theorem State.setX_pc (s : State) (i : Reg) (v : Word) : (s.setX i v).pc = s.pc := by
  unfold State.setX; split <;> rfl

@[simp] theorem State.setX_cpsr (s : State) (i : Reg) (v : Word) : (s.setX i v).cpsr = s.cpsr := by
  unfold State.setX; split <;> rfl

@[simp] theorem State.setX_spsrFiq (s : State) (i : Reg) (v : Word) : (s.setX i v).spsrFiq = s.spsrFiq := by
  unfold State.setX; split <;> rfl

@[simp] theorem State.setX_spsrIrq (s : State) (i : Reg) (v : Word) : (s.setX i v).spsrIrq = s.spsrIrq := by
  unfold State.setX; split <;> rfl

@[simp] theorem State.setX_spsrSvc (s : State) (i : Reg) (v : Word) : (s.setX i v).spsrSvc = s.spsrSvc := by
  unfold State.setX; split <;> rfl

@[simp] theorem State.setX_spsrAbt (s : State) (i : Reg) (v : Word) : (s.setX i v).spsrAbt = s.spsrAbt := by
  unfold State.setX; split <;> rfl

@[simp] theorem State.setX_spsrUnd (s : State) (i : Reg) (v : Word) : (s.setX i v).spsrUnd = s.spsrUnd := by
  unfold State.setX; split <;> rfl

@[simp] theorem State.setX_mem (s : State) (i : Reg) (v : Word) : (s.setX i v).mem = s.mem := by
  unfold State.setX; split <;> rfl

@[simp] theorem State.setX_stored (s : State) (i : Reg) (v : Word) : (s.setX i v).stored = s.stored := by
  unfold State.setX; split <;> rfl

@[simp] theorem State.setX_cpPast (s : State) (i : Reg) (v : Word) : (s.setX i v).cpPast = s.cpPast := by
  unfold State.setX; split <;> rfl

@[simp] theorem State.setX_coprocs (s : State) (i : Reg) (v : Word) : (s.setX i v).coprocs = s.coprocs := by
  unfold State.setX; split <;> rfl

@[simp] theorem State.setX_settings (s : State) (i : Reg) (v : Word) : (s.setX i v).settings = s.settings := by
  unfold State.setX; split <;> rfl

@[simp] theorem State.setX_lines (s : State) (i : Reg) (v : Word) : (s.setX i v).lines = s.lines := by
  unfold State.setX; split <;> rfl

@[simp] theorem State.setX_schedule (s : State) (i : Reg) (v : Word) : (s.setX i v).schedule = s.schedule := by
  unfold State.setX; split <;> rfl

@[simp] theorem State.setX_freeCount (s : State) (i : Reg) (v : Word) : (s.setX i v).freeCount = s.freeCount := by
  unfold State.setX; split <;> rfl

@[simp] theorem State.setX_mode (s : State) (i : Reg) (v : Word) :
    (s.setX i v).mode = s.mode := by
  unfold State.setX; split <;> rfl

@[simp] theorem State.setX_thumb (s : State) (i : Reg) (v : Word) :
    (s.setX i v).thumb = s.thumb := by
  unfold State.setX; split <;> rfl

@[simp] theorem State.setX_privileged (s : State) (i : Reg) (v : Word) :
    (s.setX i v).privileged = s.privileged := by
  unfold State.setX; split <;> rfl

@[simp] theorem State.setX_width (s : State) (i : Reg) (v : Word) :
    (s.setX i v).width = s.width := by
  unfold State.setX; split <;> rfl

@[simp] theorem State.setX_spsr (s : State) (i : Reg) (v : Word) :
    (s.setX i v).spsr? = s.spsr? := by
  unfold State.setX; split <;> rfl

@[simp] theorem State.setX_spsrOf (s : State) (i : Reg) (v : Word) (m : Mode) :
    (s.setX i v).spsrOf m = s.spsrOf m := by
  unfold State.setX; split <;> rfl

@[simp] theorem State.setX_byte (s : State) (i : Reg) (v : Word) (b : Word) :
    (s.setX i v).byte b = s.byte b := by
  unfold State.setX; split <;> rfl

/-! ## `State.setXUsr` -/

@[simp] theorem State.setXUsr_pc (s : State) (i : Reg) (v : Word) : (s.setXUsr i v).pc = s.pc := by
  unfold State.setXUsr; split <;> rfl

@[simp] theorem State.setXUsr_cpsr (s : State) (i : Reg) (v : Word) : (s.setXUsr i v).cpsr = s.cpsr := by
  unfold State.setXUsr; split <;> rfl

@[simp] theorem State.setXUsr_spsrFiq (s : State) (i : Reg) (v : Word) : (s.setXUsr i v).spsrFiq = s.spsrFiq := by
  unfold State.setXUsr; split <;> rfl

@[simp] theorem State.setXUsr_spsrIrq (s : State) (i : Reg) (v : Word) : (s.setXUsr i v).spsrIrq = s.spsrIrq := by
  unfold State.setXUsr; split <;> rfl

@[simp] theorem State.setXUsr_spsrSvc (s : State) (i : Reg) (v : Word) : (s.setXUsr i v).spsrSvc = s.spsrSvc := by
  unfold State.setXUsr; split <;> rfl

@[simp] theorem State.setXUsr_spsrAbt (s : State) (i : Reg) (v : Word) : (s.setXUsr i v).spsrAbt = s.spsrAbt := by
  unfold State.setXUsr; split <;> rfl

@[simp] theorem State.setXUsr_spsrUnd (s : State) (i : Reg) (v : Word) : (s.setXUsr i v).spsrUnd = s.spsrUnd := by
  unfold State.setXUsr; split <;> rfl

@[simp] theorem State.setXUsr_mem (s : State) (i : Reg) (v : Word) : (s.setXUsr i v).mem = s.mem := by
  unfold State.setXUsr; split <;> rfl

@[simp] theorem State.setXUsr_stored (s : State) (i : Reg) (v : Word) : (s.setXUsr i v).stored = s.stored := by
  unfold State.setXUsr; split <;> rfl

@[simp] theorem State.setXUsr_cpPast (s : State) (i : Reg) (v : Word) : (s.setXUsr i v).cpPast = s.cpPast := by
  unfold State.setXUsr; split <;> rfl

@[simp] theorem State.setXUsr_coprocs (s : State) (i : Reg) (v : Word) : (s.setXUsr i v).coprocs = s.coprocs := by
  unfold State.setXUsr; split <;> rfl

@[simp] theorem State.setXUsr_settings (s : State) (i : Reg) (v : Word) : (s.setXUsr i v).settings = s.settings := by
  unfold State.setXUsr; split <;> rfl

@[simp] theorem State.setXUsr_lines (s : State) (i : Reg) (v : Word) : (s.setXUsr i v).lines = s.lines := by
  unfold State.setXUsr; split <;> rfl

@[simp] theorem State.setXUsr_schedule (s : State) (i : Reg) (v : Word) : (s.setXUsr i v).schedule = s.schedule := by
  unfold State.setXUsr; split <;> rfl

@[simp] theorem State.setXUsr_freeCount (s : State) (i : Reg) (v : Word) : (s.setXUsr i v).freeCount = s.freeCount := by
  unfold State.setXUsr; split <;> rfl

@[simp] theorem State.setXUsr_mode (s : State) (i : Reg) (v : Word) :
    (s.setXUsr i v).mode = s.mode := by
  unfold State.setXUsr; split <;> rfl

@[simp] theorem State.setXUsr_thumb (s : State) (i : Reg) (v : Word) :
    (s.setXUsr i v).thumb = s.thumb := by
  unfold State.setXUsr; split <;> rfl

@[simp] theorem State.setXUsr_privileged (s : State) (i : Reg) (v : Word) :
    (s.setXUsr i v).privileged = s.privileged := by
  unfold State.setXUsr; split <;> rfl

@[simp] theorem State.setXUsr_width (s : State) (i : Reg) (v : Word) :
    (s.setXUsr i v).width = s.width := by
  unfold State.setXUsr; split <;> rfl

@[simp] theorem State.setXUsr_spsr (s : State) (i : Reg) (v : Word) :
    (s.setXUsr i v).spsr? = s.spsr? := by
  unfold State.setXUsr; split <;> rfl

@[simp] theorem State.setXUsr_spsrOf (s : State) (i : Reg) (v : Word) (m : Mode) :
    (s.setXUsr i v).spsrOf m = s.spsrOf m := by
  unfold State.setXUsr; split <;> rfl

@[simp] theorem State.setXUsr_byte (s : State) (i : Reg) (v : Word) (b : Word) :
    (s.setXUsr i v).byte b = s.byte b := by
  unfold State.setXUsr; split <;> rfl

/-! ## `State.setXs` -/

@[simp] theorem State.setXs_pc (s : State) (l : List (Reg × Word)) : (s.setXs l).pc = s.pc := by
  induction l generalizing s with
  | nil => rfl
  | cons w l ih => exact (ih (s.setX w.1 w.2)).trans (State.setX_pc s w.1 w.2)

@[simp] theorem State.setXs_cpsr (s : State) (l : List (Reg × Word)) : (s.setXs l).cpsr = s.cpsr := by
  induction l generalizing s with
  | nil => rfl
  | cons w l ih => exact (ih (s.setX w.1 w.2)).trans (State.setX_cpsr s w.1 w.2)

@[simp] theorem State.setXs_spsrFiq (s : State) (l : List (Reg × Word)) : (s.setXs l).spsrFiq = s.spsrFiq := by
  induction l generalizing s with
  | nil => rfl
  | cons w l ih => exact (ih (s.setX w.1 w.2)).trans (State.setX_spsrFiq s w.1 w.2)

@[simp] theorem State.setXs_spsrIrq (s : State) (l : List (Reg × Word)) : (s.setXs l).spsrIrq = s.spsrIrq := by
  induction l generalizing s with
  | nil => rfl
  | cons w l ih => exact (ih (s.setX w.1 w.2)).trans (State.setX_spsrIrq s w.1 w.2)

@[simp] theorem State.setXs_spsrSvc (s : State) (l : List (Reg × Word)) : (s.setXs l).spsrSvc = s.spsrSvc := by
  induction l generalizing s with
  | nil => rfl
  | cons w l ih => exact (ih (s.setX w.1 w.2)).trans (State.setX_spsrSvc s w.1 w.2)

@[simp] theorem State.setXs_spsrAbt (s : State) (l : List (Reg × Word)) : (s.setXs l).spsrAbt = s.spsrAbt := by
  induction l generalizing s with
  | nil => rfl
  | cons w l ih => exact (ih (s.setX w.1 w.2)).trans (State.setX_spsrAbt s w.1 w.2)

@[simp] theorem State.setXs_spsrUnd (s : State) (l : List (Reg × Word)) : (s.setXs l).spsrUnd = s.spsrUnd := by
  induction l generalizing s with
  | nil => rfl
  | cons w l ih => exact (ih (s.setX w.1 w.2)).trans (State.setX_spsrUnd s w.1 w.2)

@[simp] theorem State.setXs_mem (s : State) (l : List (Reg × Word)) : (s.setXs l).mem = s.mem := by
  induction l generalizing s with
  | nil => rfl
  | cons w l ih => exact (ih (s.setX w.1 w.2)).trans (State.setX_mem s w.1 w.2)

@[simp] theorem State.setXs_stored (s : State) (l : List (Reg × Word)) : (s.setXs l).stored = s.stored := by
  induction l generalizing s with
  | nil => rfl
  | cons w l ih => exact (ih (s.setX w.1 w.2)).trans (State.setX_stored s w.1 w.2)

@[simp] theorem State.setXs_cpPast (s : State) (l : List (Reg × Word)) : (s.setXs l).cpPast = s.cpPast := by
  induction l generalizing s with
  | nil => rfl
  | cons w l ih => exact (ih (s.setX w.1 w.2)).trans (State.setX_cpPast s w.1 w.2)

@[simp] theorem State.setXs_coprocs (s : State) (l : List (Reg × Word)) : (s.setXs l).coprocs = s.coprocs := by
  induction l generalizing s with
  | nil => rfl
  | cons w l ih => exact (ih (s.setX w.1 w.2)).trans (State.setX_coprocs s w.1 w.2)

@[simp] theorem State.setXs_settings (s : State) (l : List (Reg × Word)) : (s.setXs l).settings = s.settings := by
  induction l generalizing s with
  | nil => rfl
  | cons w l ih => exact (ih (s.setX w.1 w.2)).trans (State.setX_settings s w.1 w.2)

@[simp] theorem State.setXs_lines (s : State) (l : List (Reg × Word)) : (s.setXs l).lines = s.lines := by
  induction l generalizing s with
  | nil => rfl
  | cons w l ih => exact (ih (s.setX w.1 w.2)).trans (State.setX_lines s w.1 w.2)

@[simp] theorem State.setXs_schedule (s : State) (l : List (Reg × Word)) : (s.setXs l).schedule = s.schedule := by
  induction l generalizing s with
  | nil => rfl
  | cons w l ih => exact (ih (s.setX w.1 w.2)).trans (State.setX_schedule s w.1 w.2)

@[simp] theorem State.setXs_freeCount (s : State) (l : List (Reg × Word)) : (s.setXs l).freeCount = s.freeCount := by
  induction l generalizing s with
  | nil => rfl
  | cons w l ih => exact (ih (s.setX w.1 w.2)).trans (State.setX_freeCount s w.1 w.2)

@[simp] theorem State.setXs_mode (s : State) (l : List (Reg × Word)) :
    (s.setXs l).mode = s.mode := by
  induction l generalizing s with
  | nil => rfl
  | cons w l ih => exact (ih (s.setX w.1 w.2)).trans (State.setX_mode s w.1 w.2)

@[simp] theorem State.setXs_thumb (s : State) (l : List (Reg × Word)) :
    (s.setXs l).thumb = s.thumb := by
  induction l generalizing s with
  | nil => rfl
  | cons w l ih => exact (ih (s.setX w.1 w.2)).trans (State.setX_thumb s w.1 w.2)

@[simp] theorem State.setXs_privileged (s : State) (l : List (Reg × Word)) :
    (s.setXs l).privileged = s.privileged := by
  induction l generalizing s with
  | nil => rfl
  | cons w l ih => exact (ih (s.setX w.1 w.2)).trans (State.setX_privileged s w.1 w.2)

@[simp] theorem State.setXs_width (s : State) (l : List (Reg × Word)) :
    (s.setXs l).width = s.width := by
  induction l generalizing s with
  | nil => rfl
  | cons w l ih => exact (ih (s.setX w.1 w.2)).trans (State.setX_width s w.1 w.2)

@[simp] theorem State.setXs_spsr (s : State) (l : List (Reg × Word)) :
    (s.setXs l).spsr? = s.spsr? := by
  induction l generalizing s with
  | nil => rfl
  | cons w l ih => exact (ih (s.setX w.1 w.2)).trans (State.setX_spsr s w.1 w.2)

@[simp] theorem State.setXs_spsrOf (s : State) (l : List (Reg × Word)) (m : Mode) :
    (s.setXs l).spsrOf m = s.spsrOf m := by
  induction l generalizing s with
  | nil => rfl
  | cons w l ih => exact (ih (s.setX w.1 w.2)).trans (State.setX_spsrOf s w.1 w.2 m)

@[simp] theorem State.setXs_byte (s : State) (l : List (Reg × Word)) (b : Word) :
    (s.setXs l).byte b = s.byte b := by
  induction l generalizing s with
  | nil => rfl
  | cons w l ih => exact (ih (s.setX w.1 w.2)).trans (State.setX_byte s w.1 w.2 b)

/-! ## `State.setXsUsr` -/

@[simp] theorem State.setXsUsr_pc (s : State) (l : List (Reg × Word)) : (s.setXsUsr l).pc = s.pc := by
  induction l generalizing s with
  | nil => rfl
  | cons w l ih => exact (ih (s.setXUsr w.1 w.2)).trans (State.setXUsr_pc s w.1 w.2)

@[simp] theorem State.setXsUsr_cpsr (s : State) (l : List (Reg × Word)) : (s.setXsUsr l).cpsr = s.cpsr := by
  induction l generalizing s with
  | nil => rfl
  | cons w l ih => exact (ih (s.setXUsr w.1 w.2)).trans (State.setXUsr_cpsr s w.1 w.2)

@[simp] theorem State.setXsUsr_spsrFiq (s : State) (l : List (Reg × Word)) : (s.setXsUsr l).spsrFiq = s.spsrFiq := by
  induction l generalizing s with
  | nil => rfl
  | cons w l ih => exact (ih (s.setXUsr w.1 w.2)).trans (State.setXUsr_spsrFiq s w.1 w.2)

@[simp] theorem State.setXsUsr_spsrIrq (s : State) (l : List (Reg × Word)) : (s.setXsUsr l).spsrIrq = s.spsrIrq := by
  induction l generalizing s with
  | nil => rfl
  | cons w l ih => exact (ih (s.setXUsr w.1 w.2)).trans (State.setXUsr_spsrIrq s w.1 w.2)

@[simp] theorem State.setXsUsr_spsrSvc (s : State) (l : List (Reg × Word)) : (s.setXsUsr l).spsrSvc = s.spsrSvc := by
  induction l generalizing s with
  | nil => rfl
  | cons w l ih => exact (ih (s.setXUsr w.1 w.2)).trans (State.setXUsr_spsrSvc s w.1 w.2)

@[simp] theorem State.setXsUsr_spsrAbt (s : State) (l : List (Reg × Word)) : (s.setXsUsr l).spsrAbt = s.spsrAbt := by
  induction l generalizing s with
  | nil => rfl
  | cons w l ih => exact (ih (s.setXUsr w.1 w.2)).trans (State.setXUsr_spsrAbt s w.1 w.2)

@[simp] theorem State.setXsUsr_spsrUnd (s : State) (l : List (Reg × Word)) : (s.setXsUsr l).spsrUnd = s.spsrUnd := by
  induction l generalizing s with
  | nil => rfl
  | cons w l ih => exact (ih (s.setXUsr w.1 w.2)).trans (State.setXUsr_spsrUnd s w.1 w.2)

@[simp] theorem State.setXsUsr_mem (s : State) (l : List (Reg × Word)) : (s.setXsUsr l).mem = s.mem := by
  induction l generalizing s with
  | nil => rfl
  | cons w l ih => exact (ih (s.setXUsr w.1 w.2)).trans (State.setXUsr_mem s w.1 w.2)

@[simp] theorem State.setXsUsr_stored (s : State) (l : List (Reg × Word)) : (s.setXsUsr l).stored = s.stored := by
  induction l generalizing s with
  | nil => rfl
  | cons w l ih => exact (ih (s.setXUsr w.1 w.2)).trans (State.setXUsr_stored s w.1 w.2)

@[simp] theorem State.setXsUsr_cpPast (s : State) (l : List (Reg × Word)) : (s.setXsUsr l).cpPast = s.cpPast := by
  induction l generalizing s with
  | nil => rfl
  | cons w l ih => exact (ih (s.setXUsr w.1 w.2)).trans (State.setXUsr_cpPast s w.1 w.2)

@[simp] theorem State.setXsUsr_coprocs (s : State) (l : List (Reg × Word)) : (s.setXsUsr l).coprocs = s.coprocs := by
  induction l generalizing s with
  | nil => rfl
  | cons w l ih => exact (ih (s.setXUsr w.1 w.2)).trans (State.setXUsr_coprocs s w.1 w.2)

@[simp] theorem State.setXsUsr_settings (s : State) (l : List (Reg × Word)) : (s.setXsUsr l).settings = s.settings := by
  induction l generalizing s with
  | nil => rfl
  | cons w l ih => exact (ih (s.setXUsr w.1 w.2)).trans (State.setXUsr_settings s w.1 w.2)

@[simp] theorem State.setXsUsr_lines (s : State) (l : List (Reg × Word)) : (s.setXsUsr l).lines = s.lines := by
  induction l generalizing s with
  | nil => rfl
  | cons w l ih => exact (ih (s.setXUsr w.1 w.2)).trans (State.setXUsr_lines s w.1 w.2)

@[simp] theorem State.setXsUsr_schedule (s : State) (l : List (Reg × Word)) : (s.setXsUsr l).schedule = s.schedule := by
  induction l generalizing s with
  | nil => rfl
  | cons w l ih => exact (ih (s.setXUsr w.1 w.2)).trans (State.setXUsr_schedule s w.1 w.2)

@[simp] theorem State.setXsUsr_freeCount (s : State) (l : List (Reg × Word)) : (s.setXsUsr l).freeCount = s.freeCount := by
  induction l generalizing s with
  | nil => rfl
  | cons w l ih => exact (ih (s.setXUsr w.1 w.2)).trans (State.setXUsr_freeCount s w.1 w.2)

@[simp] theorem State.setXsUsr_mode (s : State) (l : List (Reg × Word)) :
    (s.setXsUsr l).mode = s.mode := by
  induction l generalizing s with
  | nil => rfl
  | cons w l ih => exact (ih (s.setXUsr w.1 w.2)).trans (State.setXUsr_mode s w.1 w.2)

@[simp] theorem State.setXsUsr_thumb (s : State) (l : List (Reg × Word)) :
    (s.setXsUsr l).thumb = s.thumb := by
  induction l generalizing s with
  | nil => rfl
  | cons w l ih => exact (ih (s.setXUsr w.1 w.2)).trans (State.setXUsr_thumb s w.1 w.2)

@[simp] theorem State.setXsUsr_privileged (s : State) (l : List (Reg × Word)) :
    (s.setXsUsr l).privileged = s.privileged := by
  induction l generalizing s with
  | nil => rfl
  | cons w l ih => exact (ih (s.setXUsr w.1 w.2)).trans (State.setXUsr_privileged s w.1 w.2)

@[simp] theorem State.setXsUsr_width (s : State) (l : List (Reg × Word)) :
    (s.setXsUsr l).width = s.width := by
  induction l generalizing s with
  | nil => rfl
  | cons w l ih => exact (ih (s.setXUsr w.1 w.2)).trans (State.setXUsr_width s w.1 w.2)

@[simp] theorem State.setXsUsr_spsr (s : State) (l : List (Reg × Word)) :
    (s.setXsUsr l).spsr? = s.spsr? := by
  induction l generalizing s with
  | nil => rfl
  | cons w l ih => exact (ih (s.setXUsr w.1 w.2)).trans (State.setXUsr_spsr s w.1 w.2)

@[simp] theorem State.setXsUsr_spsrOf (s : State) (l : List (Reg × Word)) (m : Mode) :
    (s.setXsUsr l).spsrOf m = s.spsrOf m := by
  induction l generalizing s with
  | nil => rfl
  | cons w l ih => exact (ih (s.setXUsr w.1 w.2)).trans (State.setXUsr_spsrOf s w.1 w.2 m)

@[simp] theorem State.setXsUsr_byte (s : State) (l : List (Reg × Word)) (b : Word) :
    (s.setXsUsr l).byte b = s.byte b := by
  induction l generalizing s with
  | nil => rfl
  | cons w l ih => exact (ih (s.setXUsr w.1 w.2)).trans (State.setXUsr_byte s w.1 w.2 b)

/-! ## `State.writeBack` -/

@[simp] theorem State.writeBack_pc (s : State) (w : Option (Reg × Word)) : (s.writeBack w).pc = s.pc := by
  cases w with
  | none => rfl
  | some w => exact State.setX_pc s w.1 w.2

@[simp] theorem State.writeBack_cpsr (s : State) (w : Option (Reg × Word)) : (s.writeBack w).cpsr = s.cpsr := by
  cases w with
  | none => rfl
  | some w => exact State.setX_cpsr s w.1 w.2

@[simp] theorem State.writeBack_spsrFiq (s : State) (w : Option (Reg × Word)) : (s.writeBack w).spsrFiq = s.spsrFiq := by
  cases w with
  | none => rfl
  | some w => exact State.setX_spsrFiq s w.1 w.2

@[simp] theorem State.writeBack_spsrIrq (s : State) (w : Option (Reg × Word)) : (s.writeBack w).spsrIrq = s.spsrIrq := by
  cases w with
  | none => rfl
  | some w => exact State.setX_spsrIrq s w.1 w.2

@[simp] theorem State.writeBack_spsrSvc (s : State) (w : Option (Reg × Word)) : (s.writeBack w).spsrSvc = s.spsrSvc := by
  cases w with
  | none => rfl
  | some w => exact State.setX_spsrSvc s w.1 w.2

@[simp] theorem State.writeBack_spsrAbt (s : State) (w : Option (Reg × Word)) : (s.writeBack w).spsrAbt = s.spsrAbt := by
  cases w with
  | none => rfl
  | some w => exact State.setX_spsrAbt s w.1 w.2

@[simp] theorem State.writeBack_spsrUnd (s : State) (w : Option (Reg × Word)) : (s.writeBack w).spsrUnd = s.spsrUnd := by
  cases w with
  | none => rfl
  | some w => exact State.setX_spsrUnd s w.1 w.2

@[simp] theorem State.writeBack_mem (s : State) (w : Option (Reg × Word)) : (s.writeBack w).mem = s.mem := by
  cases w with
  | none => rfl
  | some w => exact State.setX_mem s w.1 w.2

@[simp] theorem State.writeBack_stored (s : State) (w : Option (Reg × Word)) : (s.writeBack w).stored = s.stored := by
  cases w with
  | none => rfl
  | some w => exact State.setX_stored s w.1 w.2

@[simp] theorem State.writeBack_cpPast (s : State) (w : Option (Reg × Word)) : (s.writeBack w).cpPast = s.cpPast := by
  cases w with
  | none => rfl
  | some w => exact State.setX_cpPast s w.1 w.2

@[simp] theorem State.writeBack_coprocs (s : State) (w : Option (Reg × Word)) : (s.writeBack w).coprocs = s.coprocs := by
  cases w with
  | none => rfl
  | some w => exact State.setX_coprocs s w.1 w.2

@[simp] theorem State.writeBack_settings (s : State) (w : Option (Reg × Word)) : (s.writeBack w).settings = s.settings := by
  cases w with
  | none => rfl
  | some w => exact State.setX_settings s w.1 w.2

@[simp] theorem State.writeBack_lines (s : State) (w : Option (Reg × Word)) : (s.writeBack w).lines = s.lines := by
  cases w with
  | none => rfl
  | some w => exact State.setX_lines s w.1 w.2

@[simp] theorem State.writeBack_schedule (s : State) (w : Option (Reg × Word)) : (s.writeBack w).schedule = s.schedule := by
  cases w with
  | none => rfl
  | some w => exact State.setX_schedule s w.1 w.2

@[simp] theorem State.writeBack_freeCount (s : State) (w : Option (Reg × Word)) : (s.writeBack w).freeCount = s.freeCount := by
  cases w with
  | none => rfl
  | some w => exact State.setX_freeCount s w.1 w.2

@[simp] theorem State.writeBack_mode (s : State) (w : Option (Reg × Word)) :
    (s.writeBack w).mode = s.mode := by
  cases w with
  | none => rfl
  | some w => exact State.setX_mode s w.1 w.2

@[simp] theorem State.writeBack_thumb (s : State) (w : Option (Reg × Word)) :
    (s.writeBack w).thumb = s.thumb := by
  cases w with
  | none => rfl
  | some w => exact State.setX_thumb s w.1 w.2

@[simp] theorem State.writeBack_privileged (s : State) (w : Option (Reg × Word)) :
    (s.writeBack w).privileged = s.privileged := by
  cases w with
  | none => rfl
  | some w => exact State.setX_privileged s w.1 w.2

@[simp] theorem State.writeBack_width (s : State) (w : Option (Reg × Word)) :
    (s.writeBack w).width = s.width := by
  cases w with
  | none => rfl
  | some w => exact State.setX_width s w.1 w.2

@[simp] theorem State.writeBack_spsr (s : State) (w : Option (Reg × Word)) :
    (s.writeBack w).spsr? = s.spsr? := by
  cases w with
  | none => rfl
  | some w => exact State.setX_spsr s w.1 w.2

@[simp] theorem State.writeBack_spsrOf (s : State) (w : Option (Reg × Word)) (m : Mode) :
    (s.writeBack w).spsrOf m = s.spsrOf m := by
  cases w with
  | none => rfl
  | some w => exact State.setX_spsrOf s w.1 w.2 m

@[simp] theorem State.writeBack_byte (s : State) (w : Option (Reg × Word)) (b : Word) :
    (s.writeBack w).byte b = s.byte b := by
  cases w with
  | none => rfl
  | some w => exact State.setX_byte s w.1 w.2 b

/-! ## `State.storeBytes` -/

@[simp] theorem State.storeBytes_regs (s : State) (a : Word) (bs : List Byte) : (s.storeBytes a bs).regs = s.regs := by
  induction bs generalizing s a with
  | nil => rfl
  | cons v bs ih => exact (ih (s.storeByte a v) (a + 1)).trans (State.storeByte_regs s a v)

@[simp] theorem State.storeBytes_pc (s : State) (a : Word) (bs : List Byte) : (s.storeBytes a bs).pc = s.pc := by
  induction bs generalizing s a with
  | nil => rfl
  | cons v bs ih => exact (ih (s.storeByte a v) (a + 1)).trans (State.storeByte_pc s a v)

@[simp] theorem State.storeBytes_cpsr (s : State) (a : Word) (bs : List Byte) : (s.storeBytes a bs).cpsr = s.cpsr := by
  induction bs generalizing s a with
  | nil => rfl
  | cons v bs ih => exact (ih (s.storeByte a v) (a + 1)).trans (State.storeByte_cpsr s a v)

@[simp] theorem State.storeBytes_spsrFiq (s : State) (a : Word) (bs : List Byte) : (s.storeBytes a bs).spsrFiq = s.spsrFiq := by
  induction bs generalizing s a with
  | nil => rfl
  | cons v bs ih => exact (ih (s.storeByte a v) (a + 1)).trans (State.storeByte_spsrFiq s a v)

@[simp] theorem State.storeBytes_spsrIrq (s : State) (a : Word) (bs : List Byte) : (s.storeBytes a bs).spsrIrq = s.spsrIrq := by
  induction bs generalizing s a with
  | nil => rfl
  | cons v bs ih => exact (ih (s.storeByte a v) (a + 1)).trans (State.storeByte_spsrIrq s a v)

@[simp] theorem State.storeBytes_spsrSvc (s : State) (a : Word) (bs : List Byte) : (s.storeBytes a bs).spsrSvc = s.spsrSvc := by
  induction bs generalizing s a with
  | nil => rfl
  | cons v bs ih => exact (ih (s.storeByte a v) (a + 1)).trans (State.storeByte_spsrSvc s a v)

@[simp] theorem State.storeBytes_spsrAbt (s : State) (a : Word) (bs : List Byte) : (s.storeBytes a bs).spsrAbt = s.spsrAbt := by
  induction bs generalizing s a with
  | nil => rfl
  | cons v bs ih => exact (ih (s.storeByte a v) (a + 1)).trans (State.storeByte_spsrAbt s a v)

@[simp] theorem State.storeBytes_spsrUnd (s : State) (a : Word) (bs : List Byte) : (s.storeBytes a bs).spsrUnd = s.spsrUnd := by
  induction bs generalizing s a with
  | nil => rfl
  | cons v bs ih => exact (ih (s.storeByte a v) (a + 1)).trans (State.storeByte_spsrUnd s a v)

@[simp] theorem State.storeBytes_cpPast (s : State) (a : Word) (bs : List Byte) : (s.storeBytes a bs).cpPast = s.cpPast := by
  induction bs generalizing s a with
  | nil => rfl
  | cons v bs ih => exact (ih (s.storeByte a v) (a + 1)).trans (State.storeByte_cpPast s a v)

@[simp] theorem State.storeBytes_coprocs (s : State) (a : Word) (bs : List Byte) : (s.storeBytes a bs).coprocs = s.coprocs := by
  induction bs generalizing s a with
  | nil => rfl
  | cons v bs ih => exact (ih (s.storeByte a v) (a + 1)).trans (State.storeByte_coprocs s a v)

@[simp] theorem State.storeBytes_settings (s : State) (a : Word) (bs : List Byte) : (s.storeBytes a bs).settings = s.settings := by
  induction bs generalizing s a with
  | nil => rfl
  | cons v bs ih => exact (ih (s.storeByte a v) (a + 1)).trans (State.storeByte_settings s a v)

@[simp] theorem State.storeBytes_lines (s : State) (a : Word) (bs : List Byte) : (s.storeBytes a bs).lines = s.lines := by
  induction bs generalizing s a with
  | nil => rfl
  | cons v bs ih => exact (ih (s.storeByte a v) (a + 1)).trans (State.storeByte_lines s a v)

@[simp] theorem State.storeBytes_schedule (s : State) (a : Word) (bs : List Byte) : (s.storeBytes a bs).schedule = s.schedule := by
  induction bs generalizing s a with
  | nil => rfl
  | cons v bs ih => exact (ih (s.storeByte a v) (a + 1)).trans (State.storeByte_schedule s a v)

@[simp] theorem State.storeBytes_freeCount (s : State) (a : Word) (bs : List Byte) : (s.storeBytes a bs).freeCount = s.freeCount := by
  induction bs generalizing s a with
  | nil => rfl
  | cons v bs ih => exact (ih (s.storeByte a v) (a + 1)).trans (State.storeByte_freeCount s a v)

@[simp] theorem State.storeBytes_mode (s : State) (a : Word) (bs : List Byte) :
    (s.storeBytes a bs).mode = s.mode := by
  induction bs generalizing s a with
  | nil => rfl
  | cons v bs ih => exact (ih (s.storeByte a v) (a + 1)).trans (State.storeByte_mode s a v)

@[simp] theorem State.storeBytes_thumb (s : State) (a : Word) (bs : List Byte) :
    (s.storeBytes a bs).thumb = s.thumb := by
  induction bs generalizing s a with
  | nil => rfl
  | cons v bs ih => exact (ih (s.storeByte a v) (a + 1)).trans (State.storeByte_thumb s a v)

@[simp] theorem State.storeBytes_privileged (s : State) (a : Word) (bs : List Byte) :
    (s.storeBytes a bs).privileged = s.privileged := by
  induction bs generalizing s a with
  | nil => rfl
  | cons v bs ih => exact (ih (s.storeByte a v) (a + 1)).trans (State.storeByte_privileged s a v)

@[simp] theorem State.storeBytes_width (s : State) (a : Word) (bs : List Byte) :
    (s.storeBytes a bs).width = s.width := by
  induction bs generalizing s a with
  | nil => rfl
  | cons v bs ih => exact (ih (s.storeByte a v) (a + 1)).trans (State.storeByte_width s a v)

@[simp] theorem State.storeBytes_spsr (s : State) (a : Word) (bs : List Byte) :
    (s.storeBytes a bs).spsr? = s.spsr? := by
  induction bs generalizing s a with
  | nil => rfl
  | cons v bs ih => exact (ih (s.storeByte a v) (a + 1)).trans (State.storeByte_spsr s a v)

@[simp] theorem State.storeBytes_spsrOf (s : State) (a : Word) (bs : List Byte) (m : Mode) :
    (s.storeBytes a bs).spsrOf m = s.spsrOf m := by
  induction bs generalizing s a with
  | nil => rfl
  | cons v bs ih => exact (ih (s.storeByte a v) (a + 1)).trans (State.storeByte_spsrOf s a v m)

@[simp] theorem State.storeBytes_reg (s : State) (a : Word) (bs : List Byte) (q : PhysReg) :
    (s.storeBytes a bs).reg q = s.reg q := by
  induction bs generalizing s a with
  | nil => rfl
  | cons v bs ih => exact (ih (s.storeByte a v) (a + 1)).trans (State.storeByte_reg s a v q)

/-! ## `State.setSpsr` -/

@[simp] theorem State.setSpsr_regs (s : State) (v : Word) : (s.setSpsr v).regs = s.regs := by
  unfold State.setSpsr; split <;> rfl

@[simp] theorem State.setSpsr_pc (s : State) (v : Word) : (s.setSpsr v).pc = s.pc := by
  unfold State.setSpsr; split <;> rfl

@[simp] theorem State.setSpsr_cpsr (s : State) (v : Word) : (s.setSpsr v).cpsr = s.cpsr := by
  unfold State.setSpsr; split <;> rfl

@[simp] theorem State.setSpsr_mem (s : State) (v : Word) : (s.setSpsr v).mem = s.mem := by
  unfold State.setSpsr; split <;> rfl

@[simp] theorem State.setSpsr_stored (s : State) (v : Word) : (s.setSpsr v).stored = s.stored := by
  unfold State.setSpsr; split <;> rfl

@[simp] theorem State.setSpsr_cpPast (s : State) (v : Word) : (s.setSpsr v).cpPast = s.cpPast := by
  unfold State.setSpsr; split <;> rfl

@[simp] theorem State.setSpsr_coprocs (s : State) (v : Word) : (s.setSpsr v).coprocs = s.coprocs := by
  unfold State.setSpsr; split <;> rfl

@[simp] theorem State.setSpsr_settings (s : State) (v : Word) : (s.setSpsr v).settings = s.settings := by
  unfold State.setSpsr; split <;> rfl

@[simp] theorem State.setSpsr_lines (s : State) (v : Word) : (s.setSpsr v).lines = s.lines := by
  unfold State.setSpsr; split <;> rfl

@[simp] theorem State.setSpsr_schedule (s : State) (v : Word) : (s.setSpsr v).schedule = s.schedule := by
  unfold State.setSpsr; split <;> rfl

@[simp] theorem State.setSpsr_freeCount (s : State) (v : Word) : (s.setSpsr v).freeCount = s.freeCount := by
  unfold State.setSpsr; split <;> rfl

@[simp] theorem State.setSpsr_mode (s : State) (v : Word) :
    (s.setSpsr v).mode = s.mode := by
  unfold State.setSpsr; split <;> rfl

@[simp] theorem State.setSpsr_thumb (s : State) (v : Word) :
    (s.setSpsr v).thumb = s.thumb := by
  unfold State.setSpsr; split <;> rfl

@[simp] theorem State.setSpsr_privileged (s : State) (v : Word) :
    (s.setSpsr v).privileged = s.privileged := by
  unfold State.setSpsr; split <;> rfl

@[simp] theorem State.setSpsr_width (s : State) (v : Word) :
    (s.setSpsr v).width = s.width := by
  unfold State.setSpsr; split <;> rfl

@[simp] theorem State.setSpsr_byte (s : State) (v : Word) (b : Word) :
    (s.setSpsr v).byte b = s.byte b := by
  unfold State.setSpsr; split <;> rfl

@[simp] theorem State.setSpsr_reg (s : State) (v : Word) (q : PhysReg) :
    (s.setSpsr v).reg q = s.reg q := by
  unfold State.setSpsr; split <;> rfl

/-! ## `State.nextInputs` -/

@[simp] theorem State.nextInputs_regs (s : State) : s.nextInputs.regs = s.regs := by
  unfold State.nextInputs; split <;> rfl

@[simp] theorem State.nextInputs_pc (s : State) : s.nextInputs.pc = s.pc := by
  unfold State.nextInputs; split <;> rfl

@[simp] theorem State.nextInputs_cpsr (s : State) : s.nextInputs.cpsr = s.cpsr := by
  unfold State.nextInputs; split <;> rfl

@[simp] theorem State.nextInputs_spsrFiq (s : State) : s.nextInputs.spsrFiq = s.spsrFiq := by
  unfold State.nextInputs; split <;> rfl

@[simp] theorem State.nextInputs_spsrIrq (s : State) : s.nextInputs.spsrIrq = s.spsrIrq := by
  unfold State.nextInputs; split <;> rfl

@[simp] theorem State.nextInputs_spsrSvc (s : State) : s.nextInputs.spsrSvc = s.spsrSvc := by
  unfold State.nextInputs; split <;> rfl

@[simp] theorem State.nextInputs_spsrAbt (s : State) : s.nextInputs.spsrAbt = s.spsrAbt := by
  unfold State.nextInputs; split <;> rfl

@[simp] theorem State.nextInputs_spsrUnd (s : State) : s.nextInputs.spsrUnd = s.spsrUnd := by
  unfold State.nextInputs; split <;> rfl

@[simp] theorem State.nextInputs_mem (s : State) : s.nextInputs.mem = s.mem := by
  unfold State.nextInputs; split <;> rfl

@[simp] theorem State.nextInputs_stored (s : State) : s.nextInputs.stored = s.stored := by
  unfold State.nextInputs; split <;> rfl

@[simp] theorem State.nextInputs_cpPast (s : State) : s.nextInputs.cpPast = s.cpPast := by
  unfold State.nextInputs; split <;> rfl

@[simp] theorem State.nextInputs_coprocs (s : State) : s.nextInputs.coprocs = s.coprocs := by
  unfold State.nextInputs; split <;> rfl

@[simp] theorem State.nextInputs_settings (s : State) : s.nextInputs.settings = s.settings := by
  unfold State.nextInputs; split <;> rfl

@[simp] theorem State.nextInputs_freeCount (s : State) : s.nextInputs.freeCount = s.freeCount := by
  unfold State.nextInputs; split <;> rfl

@[simp] theorem State.nextInputs_mode (s : State) :
    s.nextInputs.mode = s.mode := by
  unfold State.nextInputs; split <;> rfl

@[simp] theorem State.nextInputs_thumb (s : State) :
    s.nextInputs.thumb = s.thumb := by
  unfold State.nextInputs; split <;> rfl

@[simp] theorem State.nextInputs_privileged (s : State) :
    s.nextInputs.privileged = s.privileged := by
  unfold State.nextInputs; split <;> rfl

@[simp] theorem State.nextInputs_width (s : State) :
    s.nextInputs.width = s.width := by
  unfold State.nextInputs; split <;> rfl

@[simp] theorem State.nextInputs_spsr (s : State) :
    s.nextInputs.spsr? = s.spsr? := by
  unfold State.nextInputs; split <;> rfl

@[simp] theorem State.nextInputs_spsrOf (s : State) (m : Mode) :
    s.nextInputs.spsrOf m = s.spsrOf m := by
  unfold State.nextInputs; split <;> rfl

@[simp] theorem State.nextInputs_byte (s : State) (b : Word) :
    s.nextInputs.byte b = s.byte b := by
  unfold State.nextInputs; split <;> rfl

@[simp] theorem State.nextInputs_reg (s : State) (q : PhysReg) :
    s.nextInputs.reg q = s.reg q := by
  unfold State.nextInputs; split <;> rfl

end Sys2Proof.Machine
end

