-- ==== Sys2Proof/Laws/Memory.lean ====
section
/-! SUPPORT. Reading memory after a write, and the canonical form of memory and of the record of stores, which every write
keeps. -/

namespace Sys2Proof.Machine

/-! ## Read after write -/

@[simp] theorem Memory.read_write_same (m : Memory) (a : Nat) (b : Byte) : Memory.read (Memory.write m a b) a = some b := by
  induction m with
  | nil => simp [Memory.write, Memory.read]
  | cons c m ih =>
    simp only [Memory.write]
    split
    · simp [Memory.read]
    · split
      · simp [Memory.read]
      · simp [Memory.read, *]

theorem Memory.read_write_ne (m : Memory) {a k : Nat} (b : Byte) (h : k ≠ a) :
    Memory.read (Memory.write m a b) k = Memory.read m k := by
  induction m with
  | nil => simp [Memory.write, Memory.read, h.symm]
  | cons c m ih =>
    simp only [Memory.write]
    split
    · simp [Memory.read, h.symm]
    · split
      · rename_i hc
        simp [Memory.read, hc, h.symm]
      · simp only [Memory.read, ih]

/-! ## The canonical form -/

/-- The form as one fact about all entries: rising, and below 2^32. -/
theorem Memory.wf_iff (m : Memory) :
    Memory.wf m = true ↔ m.Pairwise (fun c d => c.1 < d.1) ∧ ∀ c, c ∈ m → c.1 < 2 ^ 32 := by
  induction m with
  | nil => simp [Memory.wf]
  | cons c m ih =>
    cases m with
    | nil => simp [Memory.wf]
    | cons d m =>
      simp only [Memory.wf, Bool.and_eq_true, decide_eq_true_eq, ih, List.pairwise_cons, List.mem_cons,
        forall_eq_or_imp]
      constructor
      · rintro ⟨hcd, ⟨hd, hm⟩, hd32, hm32⟩
        exact ⟨⟨⟨hcd, fun e he => hcd.trans (hd e he)⟩, hd, hm⟩, hcd.trans hd32, hd32, hm32⟩
      · rintro ⟨⟨⟨hcd, _⟩, hd, hm⟩, _, hd32, hm32⟩
        exact ⟨hcd, ⟨hd, hm⟩, hd32, hm32⟩

/-- The addresses of a written memory: the one written and those that were there. -/
theorem Memory.mem_write {m : Memory} {a : Nat} {b : Byte} {c : Host.Cell} (h : c ∈ Memory.write m a b) :
    c = (a, b) ∨ c ∈ m := by
  induction m with
  | nil => simpa [Memory.write] using h
  | cons d m ih =>
    simp only [Memory.write] at h
    split at h
    · simpa using h
    · split at h
      · simp only [List.mem_cons] at h ⊢
        tauto
      · simp only [List.mem_cons] at h ⊢
        rcases h with h | h
        · exact .inr (.inl h)
        · exact (ih h).imp_right .inr

/-- A write keeps the canonical form. -/
theorem Memory.wf_write {m : Memory} {a : Nat} (b : Byte) (ha : a < 2 ^ 32) (h : Memory.wf m = true) :
    Memory.wf (Memory.write m a b) = true := by
  rw [Memory.wf_iff] at h ⊢
  refine ⟨?_, fun c hc => (Memory.mem_write hc).elim (fun e => e ▸ ha) (h.2 c)⟩
  have hp := h.1
  clear h
  induction m with
  | nil => simp [Memory.write]
  | cons d m ih =>
    obtain ⟨hd, hm⟩ := List.pairwise_cons.mp hp
    simp only [Memory.write]
    split
    · rename_i had
      refine List.pairwise_cons.mpr ⟨?_, hp⟩
      simp only [List.mem_cons, forall_eq_or_imp]
      exact ⟨had, fun e he => had.trans (hd e he)⟩
    · split
      · rename_i _ hda
        exact List.pairwise_cons.mpr ⟨fun e he => hda ▸ hd e he, hm⟩
      · rename_i h1 h2
        refine List.pairwise_cons.mpr ⟨fun e he => ?_, ih hm⟩
        rcases Memory.mem_write he with rfl | he
        · exact Nat.lt_of_le_of_ne (Nat.le_of_not_lt h1) h2
        · exact hd e he

/-- The record's form as one fact about all entries. -/
theorem addressesRise_iff (l : List Nat) :
    addressesRise l = true ↔ l.Pairwise (· < ·) ∧ ∀ a, a ∈ l → a < 2 ^ 32 := by
  induction l with
  | nil => simp [addressesRise]
  | cons a l ih =>
    cases l with
    | nil => simp [addressesRise]
    | cons d l =>
      simp only [addressesRise, Bool.and_eq_true, decide_eq_true_eq, ih, List.pairwise_cons, List.mem_cons,
        forall_eq_or_imp]
      constructor
      · rintro ⟨had, ⟨hd, hl⟩, hd32, hl32⟩
        exact ⟨⟨⟨had, fun e he => had.trans (hd e he)⟩, hd, hl⟩, had.trans hd32, hd32, hl32⟩
      · rintro ⟨⟨⟨had, _⟩, hd, hl⟩, _, hd32, hl32⟩
        exact ⟨had, ⟨hd, hl⟩, hd32, hl32⟩

@[simp] theorem mem_insertAddress (a k : Nat) (l : List Nat) : k ∈ insertAddress a l ↔ k = a ∨ k ∈ l := by
  induction l with
  | nil => simp [insertAddress]
  | cons d l ih =>
    simp only [insertAddress]
    split
    · simp
    · split
      · rename_i _ h
        simp [h]
      · simp [ih, or_left_comm]

/-- Recording an address keeps the record's form. -/
theorem addressesRise_insertAddress {a : Nat} {l : List Nat} (ha : a < 2 ^ 32) (h : addressesRise l = true) :
    addressesRise (insertAddress a l) = true := by
  rw [addressesRise_iff] at h ⊢
  refine ⟨?_, fun k hk => ((mem_insertAddress a k l).mp hk).elim (fun e => e ▸ ha) (h.2 k)⟩
  have hp := h.1
  clear h
  induction l with
  | nil => simp [insertAddress]
  | cons d l ih =>
    obtain ⟨hd, hl⟩ := List.pairwise_cons.mp hp
    simp only [insertAddress]
    split
    · rename_i had
      refine List.pairwise_cons.mpr ⟨?_, hp⟩
      simp only [List.mem_cons, forall_eq_or_imp]
      exact ⟨had, fun e he => had.trans (hd e he)⟩
    · split
      · exact hp
      · rename_i h1 h2
        refine List.pairwise_cons.mpr ⟨fun e he => ?_, ih hl⟩
        rcases (mem_insertAddress a e l).mp he with rfl | he
        · exact Nat.lt_of_le_of_ne (Nat.le_of_not_lt h1) h2
        · exact hd e he

/-- Nothing is stored at reset, and memory has its form. -/
theorem State.reset_mem_wf : Memory.wf State.reset.mem = true := rfl

/-! ## Bytes of a state -/

/-- The next address, then `k` further on. -/
theorem address_succ (a : Word) (k : Nat) : a + 1 + BitVec.ofNat 32 k = a + BitVec.ofNat 32 (k + 1) := by
  rw [BitVec.add_assoc]
  congr 1
  apply BitVec.eq_of_toNat_eq
  simp [Nat.add_comm]

/-- One distance after another. -/
theorem address_add (a : Word) (j k : Nat) : a + BitVec.ofNat 32 j + BitVec.ofNat 32 k = a + BitVec.ofNat 32 (j + k) := by
  rw [BitVec.add_assoc, BitVec.ofNat_add]

/-- Addresses at two distances below 2^32 differ. -/
theorem address_ne (a : Word) {j k : Nat} (hj : j < 2 ^ 32) (hk : k < 2 ^ 32) (h : j ≠ k) :
    a + BitVec.ofNat 32 j ≠ a + BitVec.ofNat 32 k := by
  intro e
  have := congrArg BitVec.toNat ((BitVec.add_right_inj a).mp e)
  simp only [BitVec.toNat_ofNat, Nat.mod_eq_of_lt hj, Nat.mod_eq_of_lt hk] at this
  exact h this

@[simp] theorem State.byte_storeByte_same (s : State) (a : Word) (v : Byte) : (s.storeByte a v).byte a = some v :=
  Memory.read_write_same s.mem a.toNat v

theorem State.byte_storeByte_ne (s : State) {a b : Word} (v : Byte) (h : b ≠ a) :
    (s.storeByte a v).byte b = s.byte b :=
  Memory.read_write_ne s.mem v fun e => h (BitVec.eq_of_toNat_eq e)

/-- Storing bytes leaves every other address. -/
theorem State.byte_storeBytes_outside {s : State} {a b : Word} {bs : List Byte} (h : ¬bytesAt a bs.length b) :
    (s.storeBytes a bs).byte b = s.byte b := by
  induction bs generalizing s a with
  | nil => rfl
  | cons v bs ih =>
    have h0 : b ≠ a := fun e => h ⟨0, by simp, by simp [e]⟩
    refine (ih (s := s.storeByte a v) (a := a + 1) ?_).trans (State.byte_storeByte_ne s v h0)
    rintro ⟨k, hk, e⟩
    refine h ⟨k + 1, by simpa using hk, ?_⟩
    rw [e, address_succ]

/-- Each stored byte reads back, if there are no more bytes than addresses. -/
theorem State.byte_storeBytes {s : State} {a : Word} {bs : List Byte} (hn : bs.length ≤ 2 ^ 32) {k : Nat} {v : Byte}
    (hk : bs[k]? = some v) : (s.storeBytes a bs).byte (a + BitVec.ofNat 32 k) = some v := by
  induction bs generalizing s a k with
  | nil => simp at hk
  | cons w bs ih =>
    have hn' : bs.length < 2 ^ 32 := by simpa using hn
    cases k with
    | zero =>
      obtain rfl : w = v := by simpa using hk
      have : ¬bytesAt (a + 1) bs.length a := by
        rintro ⟨k, hk, e⟩
        rw [address_succ] at e
        exact address_ne a (j := 0) (k := k + 1) (by decide) (by omega) (by omega) (by simpa using e)
      simpa [State.storeBytes] using State.byte_storeBytes_outside (s := s.storeByte a w) this
    | succ k =>
      have := ih (s := s.storeByte a w) (a := a + 1) (by omega) (by simpa using hk)
      rwa [address_succ] at this

/-- Storing bytes keeps the canonical forms. -/
theorem State.storeBytes_keeps_form {s : State} {a : Word} {bs : List Byte} (hm : Memory.wf s.mem = true)
    (hs : addressesRise s.stored = true) :
    Memory.wf (s.storeBytes a bs).mem = true ∧ addressesRise (s.storeBytes a bs).stored = true := by
  induction bs generalizing s a with
  | nil => exact ⟨hm, hs⟩
  | cons v bs ih =>
    exact ih (Memory.wf_write v a.isLt hm) (addressesRise_insertAddress a.isLt hs)

/-- Every address stored to is recorded, and the record only grows. -/
theorem State.mem_stored_storeBytes {s : State} {a : Word} {bs : List Byte} {n : Nat} :
    n ∈ (s.storeBytes a bs).stored ↔ n ∈ s.stored ∨ ∃ b, bytesAt a bs.length b ∧ n = b.toNat := by
  induction bs generalizing s a with
  | nil => simp [State.storeBytes, bytesAt]
  | cons v bs ih =>
    rw [State.storeBytes, ih, State.storeByte_stored, mem_insertAddress]
    constructor
    · rintro ((h | h) | ⟨b, ⟨k, hk, e⟩, h⟩)
      · exact .inr ⟨a, ⟨0, by simp, by simp⟩, h⟩
      · exact .inl h
      · refine .inr ⟨b, ⟨k + 1, by simpa using hk, ?_⟩, h⟩
        rw [e, address_succ]
    · rintro (h | ⟨b, ⟨k, hk, e⟩, h⟩)
      · exact .inl (.inr h)
      · cases k with
        | zero => exact .inl (.inl (by simpa [e] using h))
        | succ k =>
          refine .inr ⟨b, ⟨k, by simpa using hk, ?_⟩, h⟩
          rw [e, address_succ]

end Sys2Proof.Machine
end

