-- ==== Sys2Proof/Laws/Psr.lean ====
section
/-! SUPPORT. What each operation on a program status register does to each of its fields, to the mask views that frames use, and
to the reserved bits. -/

namespace Sys2Proof.Machine

/-! ## `Psr.withNZCV` -/

@[simp] theorem Psr.n_withNZCV (p : Word) (n z c v : Bool) : Psr.n (Psr.withNZCV p n z c v) = n := by
  simp only [Psr.n, Psr.withNZCV, BitVec.getLsbD_append]
  simp

@[simp] theorem Psr.z_withNZCV (p : Word) (n z c v : Bool) : Psr.z (Psr.withNZCV p n z c v) = z := by
  simp only [Psr.z, Psr.withNZCV, BitVec.getLsbD_append]
  simp

@[simp] theorem Psr.c_withNZCV (p : Word) (n z c v : Bool) : Psr.c (Psr.withNZCV p n z c v) = c := by
  simp only [Psr.c, Psr.withNZCV, BitVec.getLsbD_append]
  simp

@[simp] theorem Psr.v_withNZCV (p : Word) (n z c v : Bool) : Psr.v (Psr.withNZCV p n z c v) = v := by
  simp only [Psr.v, Psr.withNZCV, BitVec.getLsbD_append]
  simp

theorem Psr.getLsbD_withNZCV_low (p : Word) (n z c v : Bool) (k : Nat) (h : k < 28) :
    (Psr.withNZCV p n z c v).getLsbD k = p.getLsbD k := by
  simp only [Psr.withNZCV, BitVec.getLsbD_append, BitVec.getLsbD_extractLsb', h]
  simp

@[simp] theorem Psr.q_withNZCV (p : Word) (n z c v : Bool) : Psr.q (Psr.withNZCV p n z c v) = Psr.q p :=
  Psr.getLsbD_withNZCV_low p n z c v 27 (by decide)

@[simp] theorem Psr.i_withNZCV (p : Word) (n z c v : Bool) : Psr.i (Psr.withNZCV p n z c v) = Psr.i p :=
  Psr.getLsbD_withNZCV_low p n z c v 7 (by decide)

@[simp] theorem Psr.f_withNZCV (p : Word) (n z c v : Bool) : Psr.f (Psr.withNZCV p n z c v) = Psr.f p :=
  Psr.getLsbD_withNZCV_low p n z c v 6 (by decide)

@[simp] theorem Psr.t_withNZCV (p : Word) (n z c v : Bool) : Psr.t (Psr.withNZCV p n z c v) = Psr.t p :=
  Psr.getLsbD_withNZCV_low p n z c v 5 (by decide)

/-- An extracted field agrees if its bits do. -/
theorem extract_congr {p q : Word} (lo w : Nat) (h : ∀ k, k < w → p.getLsbD (lo + k) = q.getLsbD (lo + k)) :
    p.extractLsb' lo w = q.extractLsb' lo w := by
  apply BitVec.eq_of_getLsbD_eq
  intro k hk
  simp only [BitVec.getLsbD_extractLsb', hk, h k hk]

@[simp] theorem Psr.m_withNZCV (p : Word) (n z c v : Bool) : Psr.m (Psr.withNZCV p n z c v) = Psr.m p :=
  extract_congr 0 5 fun k hk => Psr.getLsbD_withNZCV_low p n z c v (0 + k) (by omega)

@[simp] theorem Psr.reserved_withNZCV (p : Word) (n z c v : Bool) :
    Psr.reserved (Psr.withNZCV p n z c v) = Psr.reserved p :=
  extract_congr 8 19 fun k hk => Psr.getLsbD_withNZCV_low p n z c v (8 + k) (by omega)

/-! ## Masks: two words agree outside a mask if their other bits do -/

/-- Words that agree on every bit that the mask leaves clear agree outside the mask. -/
theorem masked_eq {p q m : Word} (h : ∀ k, k < 32 → m.getLsbD k = false → p.getLsbD k = q.getLsbD k) :
    p &&& ~~~m = q &&& ~~~m := by
  apply BitVec.eq_of_getLsbD_eq
  intro k hk
  simp only [BitVec.getLsbD_and, BitVec.getLsbD_not]
  cases hm : m.getLsbD k with
  | true => simp
  | false => rw [h k hk hm]

/-- Words that agree outside a mask agree on every bit the mask leaves clear. -/
theorem getLsbD_of_masked_eq {p q m : Word} (h : p &&& ~~~m = q &&& ~~~m) {k : Nat} (hk : k < 32)
    (hm : m.getLsbD k = false) : p.getLsbD k = q.getLsbD k := by
  have := congrArg (fun x => BitVec.getLsbD x k) h
  simpa only [BitVec.getLsbD_and, BitVec.getLsbD_not, hk, hm, decide_true, Bool.not_false, Bool.and_true] using this

theorem nzcvBits_getLsbD (k : Nat) (hk : k < 32) : nzcvBits.getLsbD k = decide (28 ≤ k) := by
  revert k; decide

theorem qBit_getLsbD (k : Nat) (hk : k < 32) : qBit.getLsbD k = decide (k = 27) := by
  revert k; decide

theorem tBit_getLsbD (k : Nat) (hk : k < 32) : tBit.getLsbD k = decide (k = 5) := by
  revert k; decide

theorem controlBits_getLsbD (k : Nat) (hk : k < 32) : controlBits.getLsbD k = decide (k < 8) := by
  revert k; decide

/-- N, Z, C, V are all that `Psr.withNZCV` changes. -/
theorem Psr.withNZCV_outside (p : Word) (n z c v : Bool) :
    Psr.withNZCV p n z c v &&& ~~~nzcvBits = p &&& ~~~nzcvBits := by
  refine masked_eq fun k hk hm => Psr.getLsbD_withNZCV_low p n z c v k ?_
  rw [nzcvBits_getLsbD k hk] at hm
  simpa using hm

/-! ## `Psr.withT` -/

theorem Psr.getLsbD_withT (p : Word) (t : Bool) (k : Nat) (hk : k < 32) :
    (Psr.withT p t).getLsbD k = if k = 5 then t else p.getLsbD k := by
  simp only [Psr.withT, BitVec.getLsbD_append, BitVec.getLsbD_extractLsb', BitVec.getLsbD_ofBool]
  rcases Nat.lt_trichotomy k 5 with h | h | h
  · simp [h, Nat.ne_of_lt h]
  · simp [h]
  · have h1 : ¬k < 5 := by omega
    have h2 : ¬k - 5 < 1 := by omega
    have h3 : k - 5 - 1 < 26 := by omega
    have h4 : 6 + (k - 5 - 1) = k := by omega
    simp [h1, h2, h3, h4, Nat.ne_of_gt h]

@[simp] theorem Psr.t_withT (p : Word) (t : Bool) : Psr.t (Psr.withT p t) = t := by
  rw [Psr.t, Psr.getLsbD_withT p t 5 (by decide)]; rfl

@[simp] theorem Psr.i_withT (p : Word) (t : Bool) : Psr.i (Psr.withT p t) = Psr.i p := by
  rw [Psr.i, Psr.getLsbD_withT p t 7 (by decide)]; rfl

@[simp] theorem Psr.f_withT (p : Word) (t : Bool) : Psr.f (Psr.withT p t) = Psr.f p := by
  rw [Psr.f, Psr.getLsbD_withT p t 6 (by decide)]; rfl

@[simp] theorem Psr.n_withT (p : Word) (t : Bool) : Psr.n (Psr.withT p t) = Psr.n p := by
  rw [Psr.n, Psr.getLsbD_withT p t 31 (by decide)]; rfl

@[simp] theorem Psr.z_withT (p : Word) (t : Bool) : Psr.z (Psr.withT p t) = Psr.z p := by
  rw [Psr.z, Psr.getLsbD_withT p t 30 (by decide)]; rfl

@[simp] theorem Psr.c_withT (p : Word) (t : Bool) : Psr.c (Psr.withT p t) = Psr.c p := by
  rw [Psr.c, Psr.getLsbD_withT p t 29 (by decide)]; rfl

@[simp] theorem Psr.v_withT (p : Word) (t : Bool) : Psr.v (Psr.withT p t) = Psr.v p := by
  rw [Psr.v, Psr.getLsbD_withT p t 28 (by decide)]; rfl

@[simp] theorem Psr.q_withT (p : Word) (t : Bool) : Psr.q (Psr.withT p t) = Psr.q p := by
  rw [Psr.q, Psr.getLsbD_withT p t 27 (by decide)]; rfl

@[simp] theorem Psr.m_withT (p : Word) (t : Bool) : Psr.m (Psr.withT p t) = Psr.m p :=
  extract_congr 0 5 fun k hk => by
    rw [Psr.getLsbD_withT p t (0 + k) (by omega), if_neg (by omega)]

@[simp] theorem Psr.reserved_withT (p : Word) (t : Bool) : Psr.reserved (Psr.withT p t) = Psr.reserved p :=
  extract_congr 8 19 fun k hk => by
    rw [Psr.getLsbD_withT p t (8 + k) (by omega), if_neg (by omega)]

/-- T is all that `Psr.withT` changes. -/
theorem Psr.withT_outside (p : Word) (t : Bool) : Psr.withT p t &&& ~~~tBit = p &&& ~~~tBit := by
  refine masked_eq fun k hk hm => ?_
  rw [tBit_getLsbD k hk] at hm
  rw [Psr.getLsbD_withT p t k hk, if_neg (by simpa using hm)]

/-! ## `Psr.withQ` -/

theorem Psr.getLsbD_withQ (p : Word) (k : Nat) (hk : k < 32) :
    (Psr.withQ p).getLsbD k = (decide (k = 27) || p.getLsbD k) := by
  simp only [Psr.withQ, BitVec.getLsbD_append, BitVec.getLsbD_extractLsb']
  rcases Nat.lt_trichotomy k 27 with h | h | h
  · simp [h, Nat.ne_of_lt h]
  · simp [h]
  · have h1 : ¬k < 27 := by omega
    have h2 : ¬k - 27 < 1 := by omega
    have h3 : k - 27 - 1 < 4 := by omega
    have h4 : 28 + (k - 27 - 1) = k := by omega
    simp [h1, h2, h3, h4, Nat.ne_of_gt h]

@[simp] theorem Psr.q_withQ (p : Word) : Psr.q (Psr.withQ p) = true := by
  rw [Psr.q, Psr.getLsbD_withQ p 27 (by decide)]; rfl

@[simp] theorem Psr.t_withQ (p : Word) : Psr.t (Psr.withQ p) = Psr.t p := by
  rw [Psr.t, Psr.getLsbD_withQ p 5 (by decide)]; rfl

@[simp] theorem Psr.i_withQ (p : Word) : Psr.i (Psr.withQ p) = Psr.i p := by
  rw [Psr.i, Psr.getLsbD_withQ p 7 (by decide)]; rfl

@[simp] theorem Psr.f_withQ (p : Word) : Psr.f (Psr.withQ p) = Psr.f p := by
  rw [Psr.f, Psr.getLsbD_withQ p 6 (by decide)]; rfl

@[simp] theorem Psr.m_withQ (p : Word) : Psr.m (Psr.withQ p) = Psr.m p :=
  extract_congr 0 5 fun k hk => by
    rw [Psr.getLsbD_withQ p (0 + k) (by omega), decide_eq_false (by omega), Bool.false_or]

@[simp] theorem Psr.reserved_withQ (p : Word) : Psr.reserved (Psr.withQ p) = Psr.reserved p :=
  extract_congr 8 19 fun k hk => by
    rw [Psr.getLsbD_withQ p (8 + k) (by omega), decide_eq_false (by omega), Bool.false_or]

/-- Q is all that `Psr.withQ` changes. -/
theorem Psr.withQ_outside (p : Word) : Psr.withQ p &&& ~~~qBit = p &&& ~~~qBit := by
  refine masked_eq fun k hk hm => ?_
  rw [qBit_getLsbD k hk] at hm
  rw [Psr.getLsbD_withQ p k hk, hm, Bool.false_or]

/-! ## `Psr.withControl` -/

theorem Psr.getLsbD_withControl_high (p : Word) (i f t : Bool) (m : BitVec 5) (k : Nat) (hk : k < 32) (h : 8 ≤ k) :
    (Psr.withControl p i f t m).getLsbD k = p.getLsbD k := by
  have h1 : ¬k < 5 := by omega
  have h2 : ¬k - 5 < 1 := by omega
  have h3 : ¬k - 5 - 1 < 1 := by omega
  have h4 : ¬k - 5 - 1 - 1 < 1 := by omega
  have h5 : k - 5 - 1 - 1 - 1 < 24 := by omega
  have h6 : 8 + (k - 5 - 1 - 1 - 1) = k := by omega
  simp only [Psr.withControl, BitVec.getLsbD_append, BitVec.getLsbD_extractLsb', h1, h2, h3, h4, h5, h6]
  simp

@[simp] theorem Psr.m_withControl (p : Word) (i f t : Bool) (m : BitVec 5) : Psr.m (Psr.withControl p i f t m) = m := by
  apply BitVec.eq_of_getLsbD_eq
  intro k hk
  simp only [Psr.m, Psr.withControl, BitVec.getLsbD_extractLsb', BitVec.getLsbD_append, hk, Nat.zero_add]
  simp

@[simp] theorem Psr.i_withControl (p : Word) (i f t : Bool) (m : BitVec 5) : Psr.i (Psr.withControl p i f t m) = i := by
  simp only [Psr.i, Psr.withControl, BitVec.getLsbD_append]
  simp

@[simp] theorem Psr.f_withControl (p : Word) (i f t : Bool) (m : BitVec 5) : Psr.f (Psr.withControl p i f t m) = f := by
  simp only [Psr.f, Psr.withControl, BitVec.getLsbD_append]
  simp

@[simp] theorem Psr.t_withControl (p : Word) (i f t : Bool) (m : BitVec 5) : Psr.t (Psr.withControl p i f t m) = t := by
  simp only [Psr.t, Psr.withControl, BitVec.getLsbD_append]
  simp

@[simp] theorem Psr.reserved_withControl (p : Word) (i f t : Bool) (m : BitVec 5) :
    Psr.reserved (Psr.withControl p i f t m) = Psr.reserved p :=
  extract_congr 8 19 fun k hk => Psr.getLsbD_withControl_high p i f t m (8 + k) (by omega) (by omega)

/-- I, F, T and M are all that `Psr.withControl` changes. -/
theorem Psr.withControl_outside (p : Word) (i f t : Bool) (m : BitVec 5) :
    Psr.withControl p i f t m &&& ~~~controlBits = p &&& ~~~controlBits := by
  refine masked_eq fun k hk hm => Psr.getLsbD_withControl_high p i f t m k hk ?_
  rw [controlBits_getLsbD k hk] at hm
  simpa using hm

/-! ## Modes -/

/-- The mode of a mode's code is that mode. -/
@[simp] theorem Mode.ofBits?_bits (m : Mode) : Mode.ofBits? m.bits = some m := by cases m <;> rfl

/-- A mode field that names a mode is that mode's code. -/
theorem Mode.bits_of_ofBits? {b : BitVec 5} {m : Mode} (h : Mode.ofBits? b = some m) : b = m.bits := by
  revert m; revert b; decide

end Sys2Proof.Machine
end

