-- ==== Sys2Proof/Laws/Registers.lean ====
section
/-! SUPPORT. Register numbers name distinct registers of a bank; what writing one register, or several, leaves in each. -/

namespace Sys2Proof.Machine

/-! ## One register file -/

theorem PhysReg.index_injective {r q : PhysReg} (h : r.index = q.index) : r = q := by
  cases r <;> cases q <;> first | rfl | exact absurd h (by decide)

@[simp] theorem State.reg_setReg_same (s : State) (r : PhysReg) (v : Word) : (s.setReg r v).reg r = v := by
  simp [State.reg, State.setReg]

theorem State.reg_setReg_ne (s : State) {r q : PhysReg} (v : Word) (h : r ≠ q) : (s.setReg r v).reg q = s.reg q := by
  have : r.index.val ≠ q.index.val := fun e => h (PhysReg.index_injective (Fin.ext e))
  simp [State.reg, State.setReg, Vector.getElem_set_ne, this]

/-! ## Register numbers -/

/-- Number 15 alone names no general register. -/
theorem physReg_eq_none (m : Option Mode) (i : Reg) : physReg m i = none ↔ i = 15 := by
  rcases m with _ | m
  · revert i; decide
  · cases m <;> revert i <;> decide

theorem physReg_fifteen (m : Option Mode) : physReg m 15#4 = none := (physReg_eq_none m 15).mpr rfl

/-- In one mode, two numbers name two registers. -/
theorem physReg_injective {m : Option Mode} {i j : Reg} {r : PhysReg} (hi : physReg m i = some r)
    (hj : physReg m j = some r) : i = j := by
  have h : ∀ i j : Reg, physReg m i = physReg m j → i = j := by
    rcases m with _ | m
    · decide
    · cases m <;> decide
  exact h i j (hi.trans hj.symm)

/-- A number other than 15 names a register. -/
theorem exists_physReg (m : Option Mode) {i : Reg} (h : i ≠ 15) : ∃ r, physReg m i = some r :=
  Option.ne_none_iff_exists'.mp fun e => h ((physReg_eq_none m i).mp e)

/-! ## Reading and writing by number -/

theorem State.x_of_physReg {s : State} {i : Reg} {r : PhysReg} (h : physReg s.mode i = some r) : s.x i = s.reg r := by
  simp [State.x, h]

@[simp] theorem State.x_fifteen (s : State) : s.x 15#4 = s.pcRead := by
  simp [State.x, physReg_fifteen]

theorem State.setX_of_physReg {s : State} {i : Reg} {r : PhysReg} (v : Word) (h : physReg s.mode i = some r) :
    s.setX i v = s.setReg r v := by
  simp [State.setX, h]

@[simp] theorem State.setX_fifteen (s : State) (v : Word) : s.setX 15#4 v = s := by
  simp [State.setX, physReg_fifteen]

/-- States with the same mode and register file read every number but 15 the same. -/
theorem State.x_congr {s t : State} {i : Reg} (hi : i ≠ 15) (hm : t.mode = s.mode) (hr : t.regs = s.regs) :
    t.x i = s.x i := by
  obtain ⟨r, h⟩ := exists_physReg s.mode hi
  rw [State.x_of_physReg h, State.x_of_physReg (hm ▸ h), State.reg, State.reg, hr]

theorem State.x_setX_same (s : State) {i : Reg} (v : Word) (hi : i ≠ 15) : (s.setX i v).x i = v := by
  obtain ⟨r, h⟩ := exists_physReg s.mode hi
  rw [State.x_of_physReg (s := s.setX i v) (r := r) (by simpa using h), State.setX_of_physReg v h,
    State.reg_setReg_same]

theorem State.x_setX_ne (s : State) {i j : Reg} (v : Word) (h : j ≠ i) : (s.setX i v).x j = s.x j := by
  by_cases hi : i = 15
  · simp [hi]
  by_cases hj : j = 15
  · simp [hj, State.pcRead]
  obtain ⟨r, hr⟩ := exists_physReg s.mode hi
  obtain ⟨q, hq⟩ := exists_physReg s.mode hj
  have : r ≠ q := fun e => h (physReg_injective hq (e ▸ hr))
  rw [State.x_of_physReg (s := s.setX i v) (r := q) (by simpa using hq), State.setX_of_physReg v hr,
    State.reg_setReg_ne s v this, State.x_of_physReg hq]

/-- Writing a number leaves every register but the one it names. -/
theorem State.reg_setX {s : State} {i : Reg} {r : PhysReg} (v : Word) (h : physReg s.mode i ≠ some r) :
    (s.setX i v).reg r = s.reg r := by
  unfold State.setX
  split
  · rename_i q hq
    exact State.reg_setReg_ne s v fun e => h (e ▸ hq)
  · rfl

/-- Writing a number of the User bank leaves every register but the one it names. -/
theorem State.reg_setXUsr {s : State} {i : Reg} {r : PhysReg} (v : Word) (h : physReg (some .usr) i ≠ some r) :
    (s.setXUsr i v).reg r = s.reg r := by
  unfold State.setXUsr
  split
  · rename_i q hq
    exact State.reg_setReg_ne s v fun e => h (e ▸ hq)
  · rfl

/-! ## The pc's number -/

@[simp] theorem State.x_setPc (s : State) (a : Word) {i : Reg} (hi : i ≠ 15) : (s.setPc a).x i = s.x i :=
  State.x_congr hi rfl rfl

@[simp] theorem State.x_useFree (s : State) (n : Nat) (i : Reg) : (s.useFree n).x i = s.x i := rfl

@[simp] theorem State.x_storeBytes (s : State) (a : Word) (bs : List Byte) (i : Reg) :
    (s.storeBytes a bs).x i = s.x i := by
  simp [State.x, State.pcRead]

/-- Writing a status register with the same mode field keeps every number but 15. -/
theorem State.x_setCpsr {s : State} {p : Word} {i : Reg} (hi : i ≠ 15) (hm : Psr.m p = Psr.m s.cpsr) :
    (s.setCpsr p).x i = s.x i :=
  State.x_congr hi (by simp [State.mode, hm]) rfl

/-! ## Several registers -/

/-- Writing several numbers leaves every register that none of them names. -/
theorem State.reg_setXs {s : State} {l : List (Reg × Word)} {r : PhysReg}
    (h : ∀ w, w ∈ l → physReg s.mode w.1 ≠ some r) : (s.setXs l).reg r = s.reg r := by
  induction l generalizing s with
  | nil => rfl
  | cons w l ih =>
    refine (ih (s := s.setX w.1 w.2) fun u hu => ?_).trans (State.reg_setX w.2 (h w (by simp)))
    simpa using h u (by simp [hu])

theorem State.x_setXs_of_not_mem {s : State} {l : List (Reg × Word)} {i : Reg} (h : ∀ w, w ∈ l → w.1 ≠ i) :
    (s.setXs l).x i = s.x i := by
  induction l generalizing s with
  | nil => rfl
  | cons w l ih =>
    exact (ih (s := s.setX w.1 w.2) fun u hu => h u (by simp [hu])).trans
      (State.x_setX_ne s w.2 (h w (by simp)).symm)

/-- Writing values to distinct numbers leaves each value in its register. -/
theorem State.x_setXs_zip {s : State} {regs : List Reg} {vs : List Word} (hd : regs.Nodup) {k : Nat} {r : Reg}
    {v : Word} (hr : regs[k]? = some r) (hv : vs[k]? = some v) (h15 : r ≠ 15) : (s.setXs (regs.zip vs)).x r = v := by
  induction regs generalizing s vs k with
  | nil => simp at hr
  | cons q regs ih =>
    cases vs with
    | nil => simp at hv
    | cons w vs =>
      obtain ⟨hq, hd⟩ := List.nodup_cons.mp hd
      cases k with
      | zero =>
        obtain rfl : q = r := by simpa using hr
        obtain rfl : w = v := by simpa using hv
        refine (State.x_setXs_of_not_mem (s := s.setX q w) fun u hu => ?_).trans (State.x_setX_same s w h15)
        exact fun e => hq (e ▸ (List.of_mem_zip hu).1)
      | succ k => exact ih (s := s.setX q w) hd (by simpa using hr) (by simpa using hv)

/-- Writing several numbers of the User bank leaves every register that none of them names. -/
theorem State.reg_setXsUsr {s : State} {l : List (Reg × Word)} {r : PhysReg}
    (h : ∀ w, w ∈ l → physReg (some .usr) w.1 ≠ some r) : (s.setXsUsr l).reg r = s.reg r := by
  induction l generalizing s with
  | nil => rfl
  | cons w l ih =>
    exact (ih (s := s.setXUsr w.1 w.2) fun u hu => h u (by simp [hu])).trans
      (State.reg_setXUsr w.2 (h w (by simp)))

/-- The write of a base leaves every register but the base. -/
theorem State.reg_writeBack {s : State} {w : Option (Reg × Word)} {r : PhysReg}
    (h : ∀ rn v, w = some (rn, v) → physReg s.mode rn ≠ some r) : (s.writeBack w).reg r = s.reg r := by
  cases w with
  | none => rfl
  | some w => exact State.reg_setX w.2 (h w.1 w.2 rfl)

/-! ## Saved status registers -/

/-- In a mode that has one, the SPSR written reads back. -/
theorem State.spsr?_setSpsr {s : State} {v p : Word} (h : s.spsr? = some p) : (s.setSpsr v).spsr? = some v := by
  have hm : (s.setSpsr v).mode = s.mode := by simp
  revert h
  unfold State.spsr?
  rw [hm]
  unfold State.setSpsr
  cases s.mode with
  | none => simp
  | some m => cases m <;> simp

/-- Writing the SPSR of one mode leaves that of every other. -/
theorem State.spsrOf_setSpsr {s : State} {v : Word} {m m' : Mode} (hm : s.mode = some m) (h : m' ≠ m) :
    (s.setSpsr v).spsrOf m' = s.spsrOf m' := by
  unfold State.setSpsr
  rw [hm]
  cases m <;> cases m' <;> first | rfl | exact absurd rfl h

end Sys2Proof.Machine
end

