-- ==== Sys2Proof/Laws/Ops.lean ====
section
/-! SUPPORT. Each shared operation, said once: what it must have met and what state it gives, if it answers a next state. -/

namespace Sys2Proof.Machine

/-! ## What every meaning does first -/

theorem always_of_wf {i : Instr} (h : i.wf = true) (r : Result) : always i r = r := if_pos h

theorem onCondition_of_holds {i : Instr} {c : Cond} {s : State} (h : i.wf = true) (hc : Cond.holds c s.cpsr = true)
    (r : Result) : onCondition i c s r = r := by
  simp only [onCondition, always_of_wf h, hc, if_true]

theorem onCondition_of_fails {i : Instr} {c : Cond} {s : State} (h : i.wf = true) (hc : Cond.holds c s.cpsr = false)
    (r : Result) : onCondition i c s r = advance s := by
  simp only [onCondition, always_of_wf h, hc, Bool.false_eq_true, if_false]

theorem always_next {i : Instr} {r : Result} {t : State} : always i r = .next t ↔ i.wf = true ∧ r = .next t := by
  unfold always staticOk
  cases i.wf <;> simp

theorem onCondition_next {i : Instr} {c : Cond} {s t : State} {r : Result} :
    onCondition i c s r = .next t ↔
      i.wf = true ∧ ((Cond.holds c s.cpsr = true ∧ r = .next t) ∨ (Cond.holds c s.cpsr = false ∧ advance s = .next t)) := by
  simp only [onCondition, always_next]
  cases Cond.holds c s.cpsr <;> simp

/-! ## The pc -/

theorem advance_of_room {s : State} (h : s.hasRoom) : advance s = .next (s.setPc s.nextPc) := if_pos h

theorem advance_next {s t : State} : advance s = .next t ↔ s.hasRoom ∧ t = s.setPc s.nextPc := by
  simp only [advance, State.hasRoom]
  split <;> simp_all [eq_comm]

theorem branchPlain_next {s t : State} {v : Word} : branchPlain s v = .next t ↔ lowTwo v = 0 ∧ t = s.setPc v := by
  simp only [branchPlain]
  split <;> simp_all [eq_comm]

theorem branchThumb_next {s t : State} {v : Word} : branchThumb s v = .next t ↔ t = s.setPc (alignHalf v) := by
  simp [branchThumb, eq_comm]

theorem branchExchange_next {s t : State} {v : Word} :
    branchExchange s v = .next t ↔
      lowTwo v ≠ 0b10 ∧ t = (s.setCpsr (Psr.withT s.cpsr (v.getLsbD 0))).setPc (alignHalf v) := by
  simp only [branchExchange]
  split <;> simp_all [eq_comm]

theorem branchTo_next {s t : State} {o : Option Word} : branchTo s o = .next t ↔ ∃ a, o = some a ∧ t = s.setPc a := by
  cases o <;> simp [branchTo, eq_comm]

theorem State.branchTarget?_some {s : State} {offset : Int} {a : Word} :
    s.branchTarget? offset = some a ↔
      0 ≤ (s.pc.toNat : Int) + (if s.thumb then 4 else 8) + offset ∧
      (s.pc.toNat : Int) + (if s.thumb then 4 else 8) + offset < 2 ^ 32 ∧
      a = BitVec.ofInt 32 ((s.pc.toNat : Int) + (if s.thumb then 4 else 8) + offset) := by
  simp only [State.branchTarget?]
  generalize (s.pc.toNat : Int) + (if s.thumb then 4 else 8) + offset = n
  split <;> rename_i h
  · simp only [Option.some.injEq, h, true_and]
    exact eq_comm
  · simp only [reduceCtorEq, false_iff]
    tauto

/-! ## Exceptions -/

/-- The entry of every exception but Reset. -/
theorem takeException_of_ne_reset {e : Exception} (h : e ≠ .reset) (s : State) :
    takeException e s = enterException e (e.link s) s.cpsr s := by
  cases e <;> first | rfl | exact absurd rfl h

section Entry
variable (e : Exception) (link saved : Word) (s : State)

@[simp] theorem enterException_cpsr :
    (enterException e link saved s).cpsr =
      Psr.withControl s.cpsr true (Psr.f s.cpsr || e.masksFiq) false e.mode.bits := by
  simp [enterException]

@[simp] theorem enterException_pc : (enterException e link saved s).pc = s.vectorBase + e.offset := by
  simp [enterException]

@[simp] theorem enterException_mem : (enterException e link saved s).mem = s.mem := by simp [enterException]

@[simp] theorem enterException_stored : (enterException e link saved s).stored = s.stored := by simp [enterException]

@[simp] theorem enterException_cpPast : (enterException e link saved s).cpPast = s.cpPast := by simp [enterException]

@[simp] theorem enterException_coprocs : (enterException e link saved s).coprocs = s.coprocs := by
  simp [enterException]

@[simp] theorem enterException_settings : (enterException e link saved s).settings = s.settings := by
  simp [enterException]

@[simp] theorem enterException_lines : (enterException e link saved s).lines = s.lines := by simp [enterException]

@[simp] theorem enterException_schedule : (enterException e link saved s).schedule = s.schedule := by
  simp [enterException]

@[simp] theorem enterException_freeCount : (enterException e link saved s).freeCount = s.freeCount := by
  simp [enterException]

@[simp] theorem enterException_byte (a : Word) : (enterException e link saved s).byte a = s.byte a := by
  simp [enterException]

@[simp] theorem enterException_mode : (enterException e link saved s).mode = some e.mode := by
  simp [State.mode]

/-- The link register of the mode entered holds the link value. -/
theorem enterException_link : (enterException e link saved s).x 14 = link := by
  rw [enterException, State.x_setPc _ _ (by decide)]
  exact (State.x_congr (by decide) (State.setSpsr_mode _ _) (State.setSpsr_regs _ _)).trans
    (State.x_setX_same _ link (by decide))

/-- Every other register is as before. -/
theorem enterException_reg {r : PhysReg} (h : physReg (some e.mode) 14 ≠ some r) :
    (enterException e link saved s).reg r = s.reg r := by
  rw [enterException, State.setPc_reg, State.setSpsr_reg, State.reg_setX link (by simpa [State.mode] using h),
    State.setCpsr_reg]

/-- The SPSR of the mode entered holds the saved status. -/
theorem enterException_spsr : (enterException e link saved s).spsrOf e.mode = some saved := by
  have hm : ((s.setCpsr (Psr.withControl s.cpsr true (Psr.f s.cpsr || e.masksFiq) false e.mode.bits)).setX 14 link).mode =
      some e.mode := by simp [State.mode]
  rw [enterException, State.setPc_spsrOf]
  unfold State.setSpsr
  rw [hm]
  cases e <;> rfl

/-- The SPSR of every other mode is as before. -/
theorem enterException_spsrOf {m : Mode} (h : m ≠ e.mode) :
    (enterException e link saved s).spsrOf m = s.spsrOf m := by
  rw [enterException, State.setPc_spsrOf, State.spsrOf_setSpsr (m := e.mode) (by simp [State.mode]) h,
    State.setX_spsrOf, State.setCpsr_spsrOf]

end Entry

/-- The coprocessors see the Reset exception. -/
@[simp] theorem takeException_reset_cpPast (s : State) : (takeException .reset s).cpPast = .reset :: s.cpPast := by
  simp [takeException]

/-- The SPSR of the current mode is that of the mode its number names. -/
theorem State.spsr?_eq (s : State) : s.spsr? = s.mode.bind s.spsrOf := by
  unfold State.spsr? State.spsrOf
  cases s.mode with
  | none => rfl
  | some m => cases m <;> rfl

theorem exceptionReturn_next {s t : State} {v : Word} :
    exceptionReturn s v = .next t ↔
      ∃ p, s.spsr? = some p ∧ (Mode.ofBits? (Psr.m p)).isSome = true ∧
        t = (s.setCpsr p).setPc (if Psr.t p then alignHalf v else alignWord v) := by
  simp only [exceptionReturn]
  cases s.spsr? with
  | none => simp
  | some p =>
    simp only [Option.some.injEq, exists_eq_left']
    cases (Mode.ofBits? (Psr.m p)).isSome
    · simp
    · simp only [if_true, Host.Outcome.next.injEq, true_and]
      exact eq_comm

/-! ## Accesses -/

theorem State.access_value {α : Type} {s : State} {privileged : Bool} {size : Nat} {a : Word} {o : Option α} {v : α} :
    s.access privileged size a o = .value v ↔ s.settings.aborts .read privileged size a = false ∧ o = some v := by
  simp only [State.access]
  cases s.settings.aborts .read privileged size a <;> cases o <;> simp

theorem State.access_abort {α : Type} {s : State} {privileged : Bool} {size : Nat} {a : Word} {o : Option α} :
    s.access privileged size a o = .abort ↔ s.settings.aborts .read privileged size a = true := by
  simp only [State.access]
  cases s.settings.aborts .read privileged size a <;> cases o <;> simp

theorem State.writeBytes_some {s t : State} {privileged : Bool} {a : Word} {bs : List Byte} :
    s.writeBytes privileged a bs = some t ↔
      s.settings.aborts .write privileged bs.length a = false ∧ t = s.storeBytes a bs := by
  simp only [State.writeBytes]
  cases s.settings.aborts .write privileged bs.length a <;> simp [eq_comm]

theorem State.writeBytes_none {s : State} {privileged : Bool} {a : Word} {bs : List Byte} :
    s.writeBytes privileged a bs = none ↔ s.settings.aborts .write privileged bs.length a = true := by
  simp only [State.writeBytes]
  cases s.settings.aborts .write privileged bs.length a <;> simp

@[simp] theorem splitHalf_length (bigend : Bool) (v : Half) : (splitHalf bigend v).length = 2 := by
  cases bigend <;> rfl

@[simp] theorem splitWord_length (bigend : Bool) (v : Word) : (splitWord bigend v).length = 4 := by
  cases bigend <;> rfl

/-- The state in which an aborted access takes the Data Abort exception. -/
def State.onAbort (s : State) (wb : Option (Reg × Word)) : State :=
  if s.settings.abortModel = .baseUpdated then s.writeBack wb else s

theorem dataAbort_next {s t : State} {wb : Option (Reg × Word)} :
    dataAbort s wb = .next t ↔ t = takeException .dataAbort (s.onAbort wb) := by
  simp [dataAbort, State.onAbort, eq_comm]

theorem Access.andThen_next {α : Type} {r : Access α} {s t : State} {wb : Option (Reg × Word)} {k : α → Result} :
    r.andThen s wb k = .next t ↔
      (∃ v, r = .value v ∧ k v = .next t) ∨ (r = .abort ∧ t = takeException .dataAbort (s.onAbort wb)) := by
  cases r <;> simp [Access.andThen, dataAbort_next]

theorem finishStore_next {s t : State} {o : Option State} {wb : Option (Reg × Word)} :
    finishStore s o wb = .next t ↔
      (∃ s', o = some s' ∧ advance (s'.writeBack wb) = .next t) ∨
        (o = none ∧ t = takeException .dataAbort (s.onAbort wb)) := by
  cases o <;> simp [finishStore, dataAbort_next]

theorem misaligned_next {s t : State} {m : Address} {size : Nat} {k : Result} :
    misaligned s m size k = .next t ↔
      spansTop m.start size = false ∧
        ((s.settings.alignFault = true ∧ t = takeException .dataAbort (s.onAbort m.writeBack)) ∨
          (s.settings.alignFault = false ∧ k = .next t)) := by
  simp only [misaligned]
  cases spansTop m.start size <;> cases s.settings.alignFault <;> simp [dataAbort_next]

/-! ## Single transfers -/

/-- A word load: the aligned word, rotated, to a register or to the pc; or a Data Abort. -/
theorem loadWord_next {s t : State} {privileged : Bool} {m : Address} {rd : Reg} (h : loadWord s privileged m rd = .next t) :
    (∃ w, s.word (alignWord m.start) = some w ∧
      ((rd ≠ 15 ∧ finishLoad s m rd (ror w (8 * (lowTwo m.start).toNat)) = .next t) ∨
        (rd = 15 ∧ lowTwo m.start = 0 ∧ branchExchange (s.writeBack m.writeBack) w = .next t))) ∨
    t = takeException .dataAbort (s.onAbort m.writeBack) := by
  simp only [loadWord] at h
  split at h
  · exact .inr (dataAbort_next.mp h)
  split at h
  · cases h
  rename_i h15
  rcases Access.andThen_next.mp h with ⟨w, hw, h⟩ | ⟨_, h⟩
  · refine .inl ⟨w, (State.access_value.mp hw).2, ?_⟩
    split at h <;> rename_i hrd
    · have h0 : lowTwo m.start = 0 := not_not.mp fun h0 => h15 ⟨hrd, h0⟩
      have hr : ror w (8 * (lowTwo m.start).toNat) = w := by
        rw [h0]
        exact ror_zero w
      exact .inr ⟨hrd, h0, hr ▸ h⟩
    · exact .inl ⟨hrd, h⟩
  · exact .inr h

/-- A byte load, extended with zeros; or a Data Abort. -/
theorem loadByte_next {s t : State} {privileged : Bool} {m : Address} {rd : Reg} (h : loadByte s privileged m rd = .next t) :
    (∃ b, s.byte m.start = some b ∧ finishLoad s m rd (b.setWidth 32) = .next t) ∨
    t = takeException .dataAbort (s.onAbort m.writeBack) :=
  (Access.andThen_next.mp h).imp (fun ⟨b, hb, h⟩ => ⟨b, (State.access_value.mp hb).2, h⟩) And.right

/-- A byte load, extended with the sign; or a Data Abort. -/
theorem loadSignedByte_next {s t : State} {m : Address} {rd : Reg} (h : loadSignedByte s m rd = .next t) :
    (∃ b, s.byte m.start = some b ∧ finishLoad s m rd (b.signExtend 32) = .next t) ∨
    t = takeException .dataAbort (s.onAbort m.writeBack) :=
  (Access.andThen_next.mp h).imp (fun ⟨b, hb, h⟩ => ⟨b, (State.access_value.mp hb).2, h⟩) And.right

/-- A halfword load from an even address; or a Data Abort. -/
theorem loadHalf_next {s t : State} {m : Address} {rd : Reg} {ext : Half → Word} (h : loadHalf s m rd ext = .next t) :
    (∃ v, m.start.getLsbD 0 = false ∧ s.half m.start = some v ∧ finishLoad s m rd (ext v) = .next t) ∨
    t = takeException .dataAbort (s.onAbort m.writeBack) := by
  simp only [loadHalf] at h
  split at h <;> rename_i h0
  · rcases (misaligned_next.mp h).2 with ⟨_, h⟩ | ⟨_, h⟩
    · exact .inr h
    · cases h
  · exact (Access.andThen_next.mp h).imp
      (fun ⟨v, hv, h⟩ => ⟨v, by simpa using h0, (State.access_value.mp hv).2, h⟩) And.right

/-- A word store at the aligned address, then the base; or a Data Abort. -/
theorem storeWord_next {s t : State} {privileged : Bool} {m : Address} {v : Word}
    (h : storeWord s privileged m v = .next t) :
    advance ((s.storeBytes (alignWord m.start) (splitWord s.settings.bigend v)).writeBack m.writeBack) = .next t ∨
    t = takeException .dataAbort (s.onAbort m.writeBack) := by
  simp only [storeWord] at h
  split at h
  · exact .inr (dataAbort_next.mp h)
  · exact (finishStore_next.mp h).imp (fun ⟨s', hs, h⟩ => (State.writeBytes_some.mp hs).2 ▸ h) And.right

/-- A byte store, then the base; or a Data Abort. -/
theorem storeByte_next {s t : State} {privileged : Bool} {m : Address} {v : Word}
    (h : storeByte s privileged m v = .next t) :
    advance ((s.storeBytes m.start [v.setWidth 8]).writeBack m.writeBack) = .next t ∨
    t = takeException .dataAbort (s.onAbort m.writeBack) :=
  (finishStore_next.mp h).imp (fun ⟨_, hs, h⟩ => (State.writeBytes_some.mp hs).2 ▸ h) And.right

/-- A halfword store at an even address, then the base; or a Data Abort. -/
theorem storeHalf_next {s t : State} {m : Address} {v : Word} (h : storeHalf s m v = .next t) :
    (m.start.getLsbD 0 = false ∧
      advance ((s.storeBytes m.start (splitHalf s.settings.bigend (v.setWidth 16))).writeBack m.writeBack) = .next t) ∨
    t = takeException .dataAbort (s.onAbort m.writeBack) := by
  simp only [storeHalf] at h
  split at h <;> rename_i h0
  · rcases (misaligned_next.mp h).2 with ⟨_, h⟩ | ⟨_, h⟩
    · exact .inr h
    · cases h
  · exact (finishStore_next.mp h).imp
      (fun ⟨s', hs, h⟩ => ⟨by simpa using h0, (State.writeBytes_some.mp hs).2 ▸ h⟩) And.right

/-! ## Sequences of word accesses -/

/-- A block read gives the words that memory holds, one for each address. -/
theorem State.readBlock_value {s : State} {privileged : Bool} {a : Word} {n : Nat} {vs : List Word} :
    s.readBlock privileged a n = .value vs ↔
      vs.length = n ∧ ∀ k v, vs[k]? = some v →
        s.settings.aborts .read privileged 4 (alignWord (a + BitVec.ofNat 32 (4 * k))) = false ∧
          s.word (alignWord (a + BitVec.ofNat 32 (4 * k))) = some v := by
  induction n generalizing a vs with
  | zero =>
    simp only [State.readBlock, Access.value.injEq, List.length_eq_zero_iff]
    constructor
    · rintro rfl
      simp
    · exact fun h => h.1.symm
  | succ n ih =>
    have hw : ∀ v, s.readWord privileged (alignWord a) = .value v ↔
        s.settings.aborts .read privileged 4 (alignWord a) = false ∧ s.word (alignWord a) = some v :=
      fun v => State.access_value
    simp only [State.readBlock]
    cases hr : s.readWord privileged (alignWord a) with
    | value w =>
      obtain ⟨ha, hv⟩ := (hw w).mp hr
      cases vs with
      | nil =>
        simp only [List.length_nil, reduceCtorEq, false_and, iff_false]
        cases s.readBlock privileged (a + 4) n <;> simp
      | cons u us =>
        have := ih (a := a + 4) (vs := us)
        simp only [word_succ] at this
        have hsplit : (∀ k v, (u :: us)[k]? = some v →
            s.settings.aborts .read privileged 4 (alignWord (a + BitVec.ofNat 32 (4 * k))) = false ∧
              s.word (alignWord (a + BitVec.ofNat 32 (4 * k))) = some v) ↔
            w = u ∧ ∀ k v, us[k]? = some v →
              s.settings.aborts .read privileged 4 (alignWord (a + BitVec.ofNat 32 (4 * (k + 1)))) = false ∧
                s.word (alignWord (a + BitVec.ofNat 32 (4 * (k + 1)))) = some v := by
          constructor
          · intro h
            refine ⟨?_, fun k v hk => h (k + 1) v (by simpa using hk)⟩
            have := (h 0 u (by simp)).2
            simp only [Nat.mul_zero, BitVec.add_zero, hv, Option.some.injEq] at this
            exact this
          · rintro ⟨rfl, h⟩ k v hk
            cases k with
            | zero =>
              obtain rfl : w = v := by simpa using hk
              simpa using And.intro ha hv
            | succ k => exact h k v (by simpa using hk)
        rw [hsplit]
        simp only [List.length_cons, Nat.add_right_cancel_iff]
        cases hb : s.readBlock privileged (a + 4) n with
        | value ws =>
          rw [hb] at this
          simp only [Access.value.injEq, List.cons.injEq] at this ⊢
          rw [this]
          tauto
        | abort =>
          rw [hb] at this
          simp only [reduceCtorEq, false_iff] at this ⊢
          tauto
        | unwritten =>
          rw [hb] at this
          simp only [reduceCtorEq, false_iff] at this ⊢
          tauto
    | abort =>
      simp only [reduceCtorEq, false_iff]
      rintro ⟨hl, h⟩
      obtain ⟨u, us, rfl⟩ := List.exists_cons_of_length_eq_add_one hl
      have := (hw u).mpr (by simpa using h 0 u (by simp))
      simp [hr] at this
    | unwritten =>
      simp only [reduceCtorEq, false_iff]
      rintro ⟨hl, h⟩
      obtain ⟨u, us, rfl⟩ := List.exists_cons_of_length_eq_add_one hl
      have := (hw u).mpr (by simpa using h 0 u (by simp))
      simp [hr] at this

/-- A word write, if it is not aborted, is a store of the word's bytes. -/
theorem State.writeWord_some {s t : State} {privileged : Bool} {a v : Word} :
    s.writeWord privileged a v = some t ↔
      s.settings.aborts .write privileged 4 a = false ∧ t = s.storeBytes a (splitWord s.settings.bigend v) := by
  rw [State.writeWord, State.writeBytes_some, splitWord_length]

/-- What holds of a state and is kept by every store of bytes holds after a block write. -/
theorem State.writeBlock_induction {P : State → Prop} {s : State} {privileged : Bool} {a : Word} {vs : List Word}
    (h : P s) (hstep : ∀ u b bs, P u → P (u.storeBytes b bs)) : P (s.writeBlock privileged a vs).1 := by
  induction vs generalizing s a with
  | nil => exact h
  | cons v vs ih =>
    simp only [State.writeBlock]
    cases hw : s.writeWord privileged (alignWord a) v with
    | none => exact h
    | some s' => exact ih ((State.writeWord_some.mp hw).2 ▸ hstep s _ _ h)

section WriteBlock
variable (s : State) (privileged : Bool) (a : Word) (vs : List Word)

@[simp] theorem State.writeBlock_regs : (s.writeBlock privileged a vs).1.regs = s.regs :=
  State.writeBlock_induction (P := fun u => u.regs = s.regs) rfl fun u b bs h => (State.storeBytes_regs u b bs).trans h

@[simp] theorem State.writeBlock_pc : (s.writeBlock privileged a vs).1.pc = s.pc :=
  State.writeBlock_induction (P := fun u => u.pc = s.pc) rfl fun u b bs h => (State.storeBytes_pc u b bs).trans h

@[simp] theorem State.writeBlock_cpsr : (s.writeBlock privileged a vs).1.cpsr = s.cpsr :=
  State.writeBlock_induction (P := fun u => u.cpsr = s.cpsr) rfl fun u b bs h => (State.storeBytes_cpsr u b bs).trans h

@[simp] theorem State.writeBlock_spsrFiq : (s.writeBlock privileged a vs).1.spsrFiq = s.spsrFiq :=
  State.writeBlock_induction (P := fun u => u.spsrFiq = s.spsrFiq) rfl fun u b bs h => (State.storeBytes_spsrFiq u b bs).trans h

@[simp] theorem State.writeBlock_spsrIrq : (s.writeBlock privileged a vs).1.spsrIrq = s.spsrIrq :=
  State.writeBlock_induction (P := fun u => u.spsrIrq = s.spsrIrq) rfl fun u b bs h => (State.storeBytes_spsrIrq u b bs).trans h

@[simp] theorem State.writeBlock_spsrSvc : (s.writeBlock privileged a vs).1.spsrSvc = s.spsrSvc :=
  State.writeBlock_induction (P := fun u => u.spsrSvc = s.spsrSvc) rfl fun u b bs h => (State.storeBytes_spsrSvc u b bs).trans h

@[simp] theorem State.writeBlock_spsrAbt : (s.writeBlock privileged a vs).1.spsrAbt = s.spsrAbt :=
  State.writeBlock_induction (P := fun u => u.spsrAbt = s.spsrAbt) rfl fun u b bs h => (State.storeBytes_spsrAbt u b bs).trans h

@[simp] theorem State.writeBlock_spsrUnd : (s.writeBlock privileged a vs).1.spsrUnd = s.spsrUnd :=
  State.writeBlock_induction (P := fun u => u.spsrUnd = s.spsrUnd) rfl fun u b bs h => (State.storeBytes_spsrUnd u b bs).trans h

@[simp] theorem State.writeBlock_cpPast : (s.writeBlock privileged a vs).1.cpPast = s.cpPast :=
  State.writeBlock_induction (P := fun u => u.cpPast = s.cpPast) rfl fun u b bs h => (State.storeBytes_cpPast u b bs).trans h

@[simp] theorem State.writeBlock_coprocs : (s.writeBlock privileged a vs).1.coprocs = s.coprocs :=
  State.writeBlock_induction (P := fun u => u.coprocs = s.coprocs) rfl fun u b bs h => (State.storeBytes_coprocs u b bs).trans h

@[simp] theorem State.writeBlock_settings : (s.writeBlock privileged a vs).1.settings = s.settings :=
  State.writeBlock_induction (P := fun u => u.settings = s.settings) rfl fun u b bs h => (State.storeBytes_settings u b bs).trans h

@[simp] theorem State.writeBlock_lines : (s.writeBlock privileged a vs).1.lines = s.lines :=
  State.writeBlock_induction (P := fun u => u.lines = s.lines) rfl fun u b bs h => (State.storeBytes_lines u b bs).trans h

@[simp] theorem State.writeBlock_schedule : (s.writeBlock privileged a vs).1.schedule = s.schedule :=
  State.writeBlock_induction (P := fun u => u.schedule = s.schedule) rfl fun u b bs h => (State.storeBytes_schedule u b bs).trans h

@[simp] theorem State.writeBlock_freeCount : (s.writeBlock privileged a vs).1.freeCount = s.freeCount :=
  State.writeBlock_induction (P := fun u => u.freeCount = s.freeCount) rfl fun u b bs h => (State.storeBytes_freeCount u b bs).trans h

@[simp] theorem State.writeBlock_reg (r : PhysReg) : (s.writeBlock privileged a vs).1.reg r = s.reg r := by
  simp [State.reg]

@[simp] theorem State.writeBlock_mode : (s.writeBlock privileged a vs).1.mode = s.mode := by
  simp [State.mode]

@[simp] theorem State.writeBlock_spsrOf (m : Mode) : (s.writeBlock privileged a vs).1.spsrOf m = s.spsrOf m := by
  cases m <;> simp [State.spsrOf]

end WriteBlock

/-- A block write leaves every byte outside its words. -/
theorem State.byte_writeBlock_outside {s : State} {privileged : Bool} {a b : Word} {vs : List Word}
    (h : ¬bytesAt (alignWord a) (4 * vs.length) b) : (s.writeBlock privileged a vs).1.byte b = s.byte b := by
  induction vs generalizing s a with
  | nil => rfl
  | cons v vs ih =>
    simp only [State.writeBlock]
    cases hw : s.writeWord privileged (alignWord a) v with
    | none => rfl
    | some s' =>
      have h4 : alignWord (a + 4) = alignWord a + BitVec.ofNat 32 4 := alignWord_add a 1
      refine (ih (s := s') ?_).trans ?_
      · rintro ⟨k, hk, e⟩
        refine h ⟨k + 4, by simp only [List.length_cons]; omega, ?_⟩
        rw [e, h4, address_add, Nat.add_comm k 4]
      · rw [(State.writeWord_some.mp hw).2]
        refine State.byte_storeBytes_outside ?_
        rintro ⟨k, hk, e⟩
        rw [splitWord_length] at hk
        exact h ⟨k, by simp only [List.length_cons]; omega, e⟩

/-- A block write that the memory system admits is not aborted. -/
theorem State.writeBlock_admitted {s : State} {privileged : Bool} {a : Word} {vs : List Word}
    (h : ∀ k, k < vs.length → s.settings.aborts .write privileged 4 (alignWord (a + BitVec.ofNat 32 (4 * k))) = false) :
    (s.writeBlock privileged a vs).2 = false := by
  induction vs generalizing s a with
  | nil => rfl
  | cons v vs ih =>
    have h0 : s.settings.aborts .write privileged 4 (alignWord a) = false := by simpa using h 0 (by simp)
    simp only [State.writeBlock, State.writeWord_some.mpr ⟨h0, rfl⟩]
    refine ih fun k hk => ?_
    rw [State.storeBytes_settings, word_succ]
    exact h (k + 1) (by simpa using hk)

/-- A block write that is not aborted stores each byte of each word. -/
theorem State.byte_writeBlock {s : State} {privileged : Bool} {a : Word} {vs : List Word}
    (hn : 4 * vs.length ≤ 2 ^ 32) (hok : (s.writeBlock privileged a vs).2 = false) {k j : Nat} {v : Word} {b : Byte}
    (hk : vs[k]? = some v) (hj : (splitWord s.settings.bigend v)[j]? = some b) :
    (s.writeBlock privileged a vs).1.byte (alignWord a + BitVec.ofNat 32 (4 * k + j)) = some b := by
  induction vs generalizing s a k with
  | nil => simp at hk
  | cons w vs ih =>
    have hj4 : j < 4 := by
      have := (List.getElem?_eq_some_iff.mp hj).1
      simpa using this
    simp only [List.length_cons] at hn
    have h4 : alignWord (a + 4) = alignWord a + BitVec.ofNat 32 4 := alignWord_add a 1
    simp only [State.writeBlock] at hok ⊢
    cases hw : s.writeWord privileged (alignWord a) w with
    | none => simp [hw] at hok
    | some s' =>
      have hs := (State.writeWord_some.mp hw).2
      simp only [hw] at hok ⊢
      cases k with
      | zero =>
        obtain rfl : w = v := by simpa using hk
        have hout : ¬bytesAt (alignWord (a + 4)) (4 * vs.length) (alignWord a + BitVec.ofNat 32 (4 * 0 + j)) := by
          rintro ⟨i, hi, e⟩
          rw [h4, address_add] at e
          exact address_ne (alignWord a) (by omega) (by omega) (by omega) e
        rw [State.byte_writeBlock_outside hout, hs, Nat.mul_zero, Nat.zero_add]
        exact State.byte_storeBytes (by simp) hj
      | succ k =>
        have := ih (s := s') (a := a + 4) (k := k) (by omega) hok (by simpa using hk) (by rw [hs]; simpa using hj)
        rw [h4, address_add] at this
        rw [show 4 * (k + 1) + j = 4 + (4 * k + j) by omega]
        exact this

/-- A load of several words: their end lies in memory, and it gives words that memory holds; or a Data Abort. -/
theorem loadBlock_next {s t : State} {m : Address} {n : Nat} {k : List Word → Result} (h : loadBlock s m n k = .next t) :
    (alignWord m.start).toNat + 4 * n ≤ 2 ^ 32 ∧
      ((∃ vs, s.readBlock s.privileged m.start n = .value vs ∧ k vs = .next t) ∨
        t = takeException .dataAbort (s.onAbort m.writeBack)) := by
  simp only [loadBlock] at h
  split at h
  · cases h
  rename_i hw
  refine ⟨(blockWraps_eq_false _ _).mp (by simpa using hw), ?_⟩
  split at h
  · exact .inr (dataAbort_next.mp h)
  · exact (Access.andThen_next.mp h).imp id And.right

theorem finishBlock_next {r : State × Bool} {t : State} {wb : Option (Reg × Word)} :
    finishBlock r wb = .next t ↔
      (r.2 = false ∧ advance (r.1.writeBack wb) = .next t) ∨
        (r.2 = true ∧ t = takeException .dataAbort (r.1.onAbort wb)) := by
  obtain ⟨s, b⟩ := r
  cases b <;> simp [finishBlock, dataAbort_next]

/-- A store of several words: their end lies in memory; all are stored, then the base; or a Data Abort, after the words below
the aborted one or after none. -/
theorem storeBlock_next {s t : State} {m : Address} {vs : List Word} (h : storeBlock s m vs = .next t) :
    (alignWord m.start).toNat + 4 * vs.length ≤ 2 ^ 32 ∧
      (((s.writeBlock s.privileged m.start vs).2 = false ∧
          advance ((s.writeBlock s.privileged m.start vs).1.writeBack m.writeBack) = .next t) ∨
        ((s.writeBlock s.privileged m.start vs).2 = true ∧
          t = takeException .dataAbort ((s.writeBlock s.privileged m.start vs).1.onAbort m.writeBack)) ∨
        t = takeException .dataAbort (s.onAbort m.writeBack)) := by
  simp only [storeBlock] at h
  split at h
  · cases h
  rename_i hw
  refine ⟨(blockWraps_eq_false _ _).mp (by simpa using hw), ?_⟩
  split at h
  · exact .inr (.inr (dataAbort_next.mp h))
  · exact (finishBlock_next.mp h).imp id .inl

end Sys2Proof.Machine
end

