-- ==== Sys2Proof/Laws/Families.lean ====
section
/-! SUPPORT. The operations that the meanings of one family share, each said once: what it must have met and what state it gives,
if it answers a next state. -/

namespace Sys2Proof.Machine

/-! ## Data processing -/

theorem writeResult_next {s t : State} {sf : Bool} {rd : Reg} {o : Alu} :
    writeResult s sf rd o = .next t ↔
      (rd = 15 ∧ sf = true ∧ exceptionReturn s o.result = .next t) ∨
      (rd = 15 ∧ sf = false ∧ branchPlain s o.result = .next t) ∨
      (rd ≠ 15 ∧ advance (if sf then (s.setX rd o.result).setCpsr (o.flags s.cpsr) else s.setX rd o.result) = .next t) := by
  unfold writeResult
  by_cases h : rd = 15#4 <;> cases sf <;> simp [h]

/-- A result goes to a register other than the pc. -/
theorem writeResult_register {s : State} {sf : Bool} {rd : Reg} {o : Alu} (h : rd ≠ 15) :
    writeResult s sf rd o = advance (if sf then (s.setX rd o.result).setCpsr (o.flags s.cpsr) else s.setX rd o.result) :=
  if_neg h

/-! ## Swaps -/

theorem finishSwap_next {o : Option State} {s t : State} {rd : Reg} {old : Word} :
    finishSwap o s rd old = .next t ↔
      (∃ s', o = some s' ∧ advance (s'.setX rd old) = .next t) ∨
        (o = none ∧ t = takeException .dataAbort (s.onAbort none)) := by
  cases o <;> simp [finishSwap, dataAbort_next]

/-- A word swap loads the aligned word, stores the register there and then writes the rotated word; or takes the Data Abort
exception. -/
theorem swapWord_next {s t : State} {rn rd rm : Reg} (h : swapWord s rn rd rm = .next t) :
    (∃ w, s.word (alignWord (s.x rn)) = some w ∧
      advance ((s.storeBytes (alignWord (s.x rn)) (splitWord s.settings.bigend (s.x rm))).setX rd
        (ror w (8 * (lowTwo (s.x rn)).toNat))) = .next t) ∨
    t = takeException .dataAbort s := by
  have hs : s.onAbort none = s := by simp [State.onAbort, State.writeBack]
  simp only [swapWord] at h
  split at h
  · exact .inr (hs ▸ dataAbort_next.mp h)
  · rcases Access.andThen_next.mp h with ⟨w, hw, h⟩ | ⟨_, h⟩
    · rcases finishSwap_next.mp h with ⟨s', hs', h⟩ | ⟨_, h⟩
      · exact .inl ⟨w, (State.access_value.mp hw).2, (State.writeBytes_some.mp hs').2 ▸ h⟩
      · exact .inr (hs ▸ h)
    · exact .inr (hs ▸ h)

/-- A byte swap, likewise. -/
theorem swapByte_next {s t : State} {rn rd rm : Reg} (h : swapByte s rn rd rm = .next t) :
    (∃ b, s.byte (s.x rn) = some b ∧
      advance ((s.storeBytes (s.x rn) [(s.x rm).setWidth 8]).setX rd (b.setWidth 32)) = .next t) ∨
    t = takeException .dataAbort s := by
  have hs : s.onAbort none = s := by simp [State.onAbort, State.writeBack]
  rcases Access.andThen_next.mp h with ⟨b, hb, h⟩ | ⟨_, h⟩
  · rcases finishSwap_next.mp h with ⟨s', hs', h⟩ | ⟨_, h⟩
    · exact .inl ⟨b, (State.access_value.mp hb).2, (State.writeBytes_some.mp hs').2 ▸ h⟩
    · exact .inr (hs ▸ h)
  · exact .inr (hs ▸ h)

/-! ## Q -/

@[simp] theorem State.stickyQ_cpsr (s : State) (sat : Bool) :
    (s.stickyQ sat).cpsr = if sat then Psr.withQ s.cpsr else s.cpsr := by
  cases sat <;> rfl

@[simp] theorem State.stickyQ_pc (s : State) (sat : Bool) : (s.stickyQ sat).pc = s.pc := by cases sat <;> rfl

@[simp] theorem State.stickyQ_regs (s : State) (sat : Bool) : (s.stickyQ sat).regs = s.regs := by cases sat <;> rfl

@[simp] theorem State.stickyQ_mode (s : State) (sat : Bool) : (s.stickyQ sat).mode = s.mode := by
  cases sat <;> simp [State.mode]

/-- Q is all that `State.stickyQ` can change. -/
theorem State.stickyQ_eq (s : State) (sat : Bool) :
    s.stickyQ sat = s.setCpsr (if sat then Psr.withQ s.cpsr else s.cpsr) := by
  cases sat <;> rfl

/-! ## Status registers -/

theorem readPsr_next {s t : State} {r : Bool} {rd : Reg} :
    readPsr s r rd = .next t ↔
      (r = false ∧ advance (s.setX rd s.cpsr) = .next t) ∨
        (r = true ∧ ∃ p, s.spsr? = some p ∧ advance (s.setX rd p) = .next t) := by
  unfold readPsr
  cases r <;> cases s.spsr? <;> simp

/-- MSR needs an operand with no reserved bit; to the SPSR it needs an SPSR; to the CPSR it writes the flags, and in a
privileged mode I, F and M too, from an operand with T clear and a legal mode. -/
theorem writePsr_next {s t : State} {r : Bool} {mask : BitVec 4} {operand : Word} :
    writePsr s r mask operand = .next t ↔
      operand &&& unallocMask = 0 ∧
        ((r = true ∧ ∃ p, s.spsr? = some p ∧
            advance (s.setSpsr (merge p operand (byteMask mask &&& (userMask ||| privMask ||| stateMask)))) = .next t) ∨
          (r = false ∧ s.privileged = true ∧ operand &&& stateMask = 0 ∧ illegalModeWrite mask operand = false ∧
            advance (s.setCpsr (merge s.cpsr operand (byteMask mask &&& (userMask ||| privMask)))) = .next t) ∨
          (r = false ∧ s.privileged = false ∧
            advance (s.setCpsr (merge s.cpsr operand (byteMask mask &&& userMask))) = .next t)) := by
  unfold writePsr
  by_cases h : operand &&& unallocMask = 0#32
  · by_cases h' : operand &&& stateMask = 0#32 <;> cases r <;> cases s.spsr? <;> cases s.privileged <;>
      cases illegalModeWrite mask operand <;> simp [h, h']
  · simp [h]

theorem getLsbD_merge (p operand m : Word) (k : Nat) (hk : k < 32) :
    (merge p operand m).getLsbD k = if m.getLsbD k then operand.getLsbD k else p.getLsbD k := by
  simp only [merge, BitVec.getLsbD_or, BitVec.getLsbD_and, BitVec.getLsbD_not, hk, decide_true, Bool.true_and]
  cases m.getLsbD k <;> simp

theorem getLsbD_byteMask (mask : BitVec 4) (k : Nat) (hk : k < 32) :
    (byteMask mask).getLsbD k = mask.getLsbD (k / 8) := by
  revert k; revert mask; decide

/-! ## Blocks -/

/-- LDM (1), POP, LDMIA: the words fill the listed registers, then the base, then the pc if it is listed; or a Data Abort. -/
theorem loadMultiple_next {s t : State} {m : Address} {list : BitVec 16} (h : loadMultiple s m list = .next t) :
    (∃ vs, s.readBlock s.privileged m.start (listRegs list).length = .value vs ∧
      ((list.getLsbD 15 = true ∧
          branchExchange ((s.setXs ((listRegs list).zip vs)).writeBack m.writeBack) (vs.getLastD 0) = .next t) ∨
        (list.getLsbD 15 = false ∧ advance ((s.setXs ((listRegs list).zip vs)).writeBack m.writeBack) = .next t))) ∨
    t = takeException .dataAbort (s.onAbort m.writeBack) := by
  refine (loadBlock_next h).2.imp ?_ id
  rintro ⟨vs, hv, h⟩
  refine ⟨vs, hv, ?_⟩
  cases hl : list.getLsbD 15
  · exact .inr ⟨rfl, by simpa only [hl, Bool.false_eq_true, if_false] using h⟩
  · exact .inl ⟨rfl, by simpa only [hl, if_true] using h⟩

/-- LDM (2): a mode with an SPSR; the words fill registers of the User bank; or a Data Abort. -/
theorem loadUser_next {s t : State} {m : Address} {list : BitVec 16} (h : loadUser s m list = .next t) :
    s.spsr?.isSome = true ∧
      ((∃ vs, s.readBlock s.privileged m.start (listRegs list).length = .value vs ∧
          advance (s.setXsUsr ((listRegs list).zip vs)) = .next t) ∨
        t = takeException .dataAbort (s.onAbort m.writeBack)) := by
  unfold loadUser at h
  split at h
  · cases h
  · rename_i hs
    exact ⟨Option.isSome_iff_ne_none.mpr (by simpa using hs), (loadBlock_next h).2⟩

/-- LDM (3): a mode with an SPSR; the words fill the listed registers, then the base, then the exception returns; or a Data
Abort. -/
theorem loadReturn_next {s t : State} {m : Address} {list : BitVec 16} (h : loadReturn s m list = .next t) :
    s.spsr?.isSome = true ∧
      ((∃ vs, s.readBlock s.privileged m.start (listRegs list).length = .value vs ∧
          exceptionReturn ((s.setXs ((listRegs list).zip vs)).writeBack m.writeBack) (vs.getLastD 0) = .next t) ∨
        t = takeException .dataAbort (s.onAbort m.writeBack)) := by
  unfold loadReturn at h
  split at h
  · cases h
  · rename_i hs
    exact ⟨Option.isSome_iff_ne_none.mpr (by simpa using hs), (loadBlock_next h).2⟩

/-- STM (2): a mode with an SPSR, then a store of several words. -/
theorem storeUser_next {s t : State} {m : Address} {list : BitVec 16} (h : storeUser s m list = .next t) :
    s.spsr?.isSome = true ∧
      storeBlock s m ((listRegs list).map fun i => if i = 15 then s.pc + s.settings.storePc.value else s.xUsr i) =
        .next t := by
  unfold storeUser at h
  split at h
  · cases h
  · rename_i hs
    exact ⟨Option.isSome_iff_ne_none.mpr (by simpa using hs), h⟩

/-! ## Coprocessors -/

/-- Acceptance: the first line for the operation accepts it, or leaves it to the coprocessor, which does. -/
theorem State.accepts?_some {s : State} {cp : CpNum} {op : CpOp} {words : List Word} {n : BitVec 4} :
    s.accepts? cp op words = some n ↔
      ∃ r, s.coprocs.find? (fun r => r.cp == cp && r.op == op) = some r ∧
        (r.answer = .takes n ∨
          (r.answer = .decides ∧ Config.cpReply cp op words (s.cpHistory cp) = some n)) := by
  unfold State.accepts?
  cases s.coprocs.find? fun r => r.cp == cp && r.op == op with
  | none => simp
  | some r => cases h : r.answer <;> simp [h]

/-- An operation that every line naming it leaves to a coprocessor which rejects it is rejected, and so is one that no line
names. -/
theorem State.accepts?_eq_none {s : State} {cp : CpNum} {op : CpOp} {words : List Word}
    (h : ∀ r, r ∈ s.coprocs → r.cp = cp → r.op = op →
      r.answer = .decides ∧ Config.cpReply cp op words (s.cpHistory cp) = none) : s.accepts? cp op words = none := by
  unfold State.accepts?
  cases hf : s.coprocs.find? fun r => r.cp == cp && r.op == op with
  | none => rfl
  | some r =>
    have hr : r.cp = cp ∧ r.op = op := by simpa using List.find?_some hf
    obtain ⟨ha, hn⟩ := h r (List.mem_of_find?_eq_some hf) hr.1 hr.2
    simp [ha, hn]

theorem offer_next {s t : State} {cp : CpNum} {op : CpOp} {words : List Word} {k : BitVec 4 → Result} :
    offer s cp op words k = .next t ↔
      (∃ n, s.accepts? cp op words = some n ∧ k n = .next t) ∨
        (s.accepts? cp op words = none ∧ t = takeException .undefined s) := by
  unfold offer
  cases s.accepts? cp op words <;> simp [undefinedInstruction, eq_comm]

/-! ## Thumb -/

/-- The start of a call's second half is its link, up to the wrap that R29 has it notice. -/
theorem State.ofInt_callBase (s : State) : BitVec.ofInt 32 s.callBase = s.x 14 := by
  simp only [State.callBase]
  split
  · have h : ((s.pc.toNat : Int) + 2 + (s.x 14 - (s.pc + 2)).toInt) =
        (s.pc.toNat : Int) + ((2 : Word).toNat : Int) + (s.x 14 - (s.pc + 2)).toInt := rfl
    rw [h, BitVec.ofInt_add, BitVec.ofInt_add, BitVec.ofInt_toInt]
    simp
  · simp

/-- The second half of a call has a target if its exact sum lies in memory, and the target is that sum. -/
theorem State.callTarget?_some {s : State} {offset : Nat} {a : Word} :
    s.callTarget? offset = some a ↔
      (0 ≤ s.callBase + offset ∧ s.callBase + offset < 2 ^ 32) ∧ a = BitVec.ofInt 32 (s.callBase + offset) := by
  unfold State.callTarget?
  rw [BitVec.ofInt_add, State.ofInt_callBase, BitVec.ofInt_natCast]
  split <;> rename_i h
  · simp only [Option.some.injEq, h, and_self, true_and]
    exact eq_comm
  · simp only [reduceCtorEq, h, false_and]

/-- After the prefix of R525 the second half counts from the exact sum, wrapped or not. -/
theorem State.callBase_of_prefix {s : State} {offset11 : BitVec 11}
    (h : s.x 14 = s.pc + 2 + BitVec.ofInt 32 (offset11.toInt * 2 ^ 12)) :
    s.callBase = s.pc.toNat + 2 + offset11.toInt * 2 ^ 12 := by
  have hd : s.x 14 - (s.pc + 2) = BitVec.ofInt 32 (offset11.toInt * 2 ^ 12) := by rw [h]; bv_omega
  have hlo : -2 ^ 10 ≤ offset11.toInt := BitVec.le_toInt offset11
  have hhi : offset11.toInt < 2 ^ 10 := BitVec.toInt_lt
  have hi : (BitVec.ofInt 32 (offset11.toInt * 2 ^ 12)).toInt = offset11.toInt * 2 ^ 12 := by
    rw [BitVec.toInt_ofInt, Int.bmod_eq_of_le] <;> omega
  have hz : (BitVec.ofInt 32 (offset11.toInt * 2 ^ 12)).extractLsb' 0 12 = 0 := by
    apply BitVec.eq_of_toNat_eq
    simp only [BitVec.extractLsb'_toNat, BitVec.toNat_ofInt, Nat.shiftRight_zero]
    simp
    omega
  unfold State.callBase
  rw [hd, if_pos ⟨hz, by omega, by omega⟩, hi]

theorem writeHigh_next {s t : State} {rd : Reg} {v : Word} :
    writeHigh s rd v = .next t ↔
      (rd = 15 ∧ t = s.setPc (alignHalf v)) ∨ (rd ≠ 15 ∧ advance (s.setX rd v) = .next t) := by
  unfold writeHigh
  by_cases h : rd = 15#4 <;> simp [h, branchThumb_next]

theorem loadFree_next {s t : State} {size : Nat} {aligned : Word} {rd : LowReg} :
    loadFree s size aligned rd = .next t ↔
      (s.settings.aborts .read s.privileged size aligned = true ∧ t = takeException .dataAbort (s.onAbort none)) ∨
        (s.settings.aborts .read s.privileged size aligned = false ∧
          advance ((s.setX (lowReg rd) s.free).useFree 1) = .next t) := by
  unfold loadFree
  cases s.settings.aborts .read s.privileged size aligned <;> simp [dataAbort_next]

@[simp] theorem State.freeBytes_length (s : State) : s.freeBytes.length = 8 := by simp [State.freeBytes]

theorem storeFree_next {s t : State} {size : Nat} {aligned a : Word} :
    storeFree s size aligned a = .next t ↔
      (s.settings.aborts .write s.privileged size aligned = true ∧ t = takeException .dataAbort (s.onAbort none)) ∨
        (s.settings.aborts .write s.privileged size aligned = false ∧
          advance ((s.useFree 2).storeBytes aligned (s.freeBytes.take (size + (a - aligned).toNat))) = .next t) := by
  unfold storeFree
  cases s.settings.aborts .write s.privileged size aligned <;> simp [dataAbort_next]

end Sys2Proof.Machine
end

