-- ==== Sys2Proof/Laws/Holds.lean ====
section
/-! SUPPORT. Bytes, halfwords and words as numbers: what `State.holds` says of the reads, and what a store makes it say. -/

namespace Sys2Proof.Machine

/-! ## The bytes of a value -/

/-- Byte `k` in address order of the number `v` of `n` bytes. -/
def byteOf (bigend : Bool) (n v k : Nat) : Byte := BitVec.ofNat 8 (v / 256 ^ (if bigend then n - 1 - k else k))

theorem State.holds_def (s : State) (a : Word) (n v : Nat) :
    s.holds a n v ↔ v < 256 ^ n ∧
      ∀ k, k < n → s.byte (a + BitVec.ofNat 32 k) = some (byteOf s.settings.bigend n v k) := Iff.rfl

theorem extract_eq_ofNat {w : Nat} (v : BitVec w) (k : Nat) :
    v.extractLsb' (8 * k) 8 = BitVec.ofNat 8 (v.toNat / 256 ^ k) := by
  apply BitVec.eq_of_toNat_eq
  rw [BitVec.extractLsb'_toNat, BitVec.toNat_ofNat, Nat.shiftRight_eq_div_pow, Nat.pow_mul]

theorem splitWord_eq (bigend : Bool) (v : Word) :
    splitWord bigend v = [byteOf bigend 4 v.toNat 0, byteOf bigend 4 v.toNat 1, byteOf bigend 4 v.toNat 2,
      byteOf bigend 4 v.toNat 3] := by
  have h0 := extract_eq_ofNat v 0
  have h1 := extract_eq_ofNat v 1
  have h2 := extract_eq_ofNat v 2
  have h3 := extract_eq_ofNat v 3
  cases bigend <;> simp [splitWord, byteOf] <;> simp_all

theorem splitHalf_eq (bigend : Bool) (v : Half) :
    splitHalf bigend v = [byteOf bigend 2 v.toNat 0, byteOf bigend 2 v.toNat 1] := by
  have h0 := extract_eq_ofNat v 0
  have h1 := extract_eq_ofNat v 1
  cases bigend <;> simp [splitHalf, byteOf] <;> simp_all

/-- A word is joined from the bytes of its number. -/
theorem joinWord_byteOf (bigend : Bool) (v : Nat) :
    joinWord bigend (byteOf bigend 4 v 0) (byteOf bigend 4 v 1) (byteOf bigend 4 v 2) (byteOf bigend 4 v 3) =
      BitVec.ofNat 32 v := by
  apply BitVec.eq_of_toNat_eq
  cases bigend <;>
    simp only [joinWord, byteOf, if_true, Bool.false_eq_true, if_false, BitVec.toNat_append, BitVec.toNat_ofNat,
      Nat.shiftLeft_eq] <;>
    (rw [← Nat.shiftLeft_eq, ← Nat.shiftLeft_eq, ← Nat.shiftLeft_eq, ← Nat.shiftLeft_add_eq_or_of_lt (by omega),
        ← Nat.shiftLeft_add_eq_or_of_lt (by omega), ← Nat.shiftLeft_add_eq_or_of_lt (by omega)]
     simp only [Nat.shiftLeft_eq]
     omega)

/-- A halfword is joined from the bytes of its number. -/
theorem joinHalf_byteOf (bigend : Bool) (v : Nat) :
    joinHalf bigend (byteOf bigend 2 v 0) (byteOf bigend 2 v 1) = BitVec.ofNat 16 v := by
  apply BitVec.eq_of_toNat_eq
  cases bigend <;>
    simp only [joinHalf, byteOf, if_true, Bool.false_eq_true, if_false, BitVec.toNat_append, BitVec.toNat_ofNat] <;>
    (rw [← Nat.shiftLeft_add_eq_or_of_lt (by omega)]
     simp only [Nat.shiftLeft_eq]
     omega)

/-! ## Reads -/

theorem State.byte_of_holds {s : State} {a : Word} {v : Nat} (h : s.holds a 1 v) :
    s.byte a = some (BitVec.ofNat 8 v) := by
  have := h.2 0 (by decide)
  simpa using this

theorem State.half_of_holds {s : State} {a : Word} {v : Nat} (h : s.holds a 2 v) :
    s.half a = some (BitVec.ofNat 16 v) := by
  have h0 := h.2 0 (by decide)
  have h1 := h.2 1 (by decide)
  rw [BitVec.add_zero] at h0
  rw [State.half, h0, show a + 1 = a + BitVec.ofNat 32 1 from rfl, h1]
  exact congrArg some (joinHalf_byteOf s.settings.bigend v)

theorem State.word_of_holds {s : State} {a : Word} {v : Nat} (h : s.holds a 4 v) :
    s.word a = some (BitVec.ofNat 32 v) := by
  have h0 := h.2 0 (by decide)
  have h1 := h.2 1 (by decide)
  have h2 := h.2 2 (by decide)
  have h3 := h.2 3 (by decide)
  rw [BitVec.add_zero] at h0
  rw [State.word, h0, show a + 1 = a + BitVec.ofNat 32 1 from rfl, h1, show a + 2 = a + BitVec.ofNat 32 2 from rfl, h2,
    show a + 3 = a + BitVec.ofNat 32 3 from rfl, h3]
  exact congrArg some (joinWord_byteOf s.settings.bigend v)

/-! ## Stores -/

/-- A store of the bytes of a number makes memory hold that number. -/
theorem State.holds_storeBytes {s : State} {a : Word} {n v : Nat} {bs : List Byte} (hv : v < 256 ^ n) (hn : n ≤ 2 ^ 32)
    (hl : bs.length = n) (h : ∀ k, k < n → bs[k]? = some (byteOf s.settings.bigend n v k)) :
    (s.storeBytes a bs).holds a n v := by
  rw [State.holds_def]
  refine ⟨hv, fun k hk => ?_⟩
  rw [State.storeBytes_settings]
  exact State.byte_storeBytes (hl ▸ hn) (h k hk)

theorem State.holds_storeWord (s : State) (a v : Word) :
    (s.storeBytes a (splitWord s.settings.bigend v)).holds a 4 v.toNat := by
  refine State.holds_storeBytes v.isLt (by decide) (by simp [splitWord_eq]) fun k hk => ?_
  rw [splitWord_eq]
  obtain rfl | rfl | rfl | rfl : k = 0 ∨ k = 1 ∨ k = 2 ∨ k = 3 := by omega
  all_goals rfl

theorem State.holds_storeHalf (s : State) (a : Word) (v : Half) :
    (s.storeBytes a (splitHalf s.settings.bigend v)).holds a 2 v.toNat := by
  refine State.holds_storeBytes v.isLt (by decide) (by simp [splitHalf_eq]) fun k hk => ?_
  rw [splitHalf_eq]
  obtain rfl | rfl : k = 0 ∨ k = 1 := by omega
  all_goals rfl

theorem State.holds_storeOneByte (s : State) (a : Word) (v : Byte) : (s.storeBytes a [v]).holds a 1 v.toNat := by
  refine State.holds_storeBytes v.isLt (by decide) rfl fun k hk => ?_
  obtain rfl : k = 0 := by omega
  simp [byteOf]

/-- A state with the same bytes and byte order holds the same numbers. -/
theorem State.holds_congr {s t : State} {a : Word} {n v : Nat} (hs : t.settings.bigend = s.settings.bigend)
    (hb : ∀ b, t.byte b = s.byte b) : t.holds a n v ↔ s.holds a n v := by
  simp only [State.holds_def, hs, hb]

end Sys2Proof.Machine
end

