-- ==== Sys2Proof/Tests/Slice0.lean ====
section
/-! SUPPORT. Small tests of the model, and for every obligation that has hypotheses a witness that something meets them.
Expected results are those of spec/95_test_vectors.md, or of the rule or table a comment names. -/

namespace Sys2Proof.Tests

open Sys2Proof.Machine

/-! ## Helpers -/

/-- A machine after reset with a status register, a pc, registers of the current bank and bytes of memory. -/
def machine (cpsr pc : Word) (regs : List (Reg × Word)) (mem : List (Word × List Byte)) : State :=
  mem.foldl (fun s m => s.place m.1 m.2) (({ State.reset with cpsr := cpsr, pc := pc } : State).setXs regs)

/-- The same with `BIGEND` set. -/
def bigEndian (s : State) : State := { s with settings := { s.settings with bigend := true } }

/-- The same with `ALIGN_FAULT` set. -/
def checked (s : State) : State := { s with settings := { s.settings with alignFault := true } }

/-- The same with the memory system aborting accesses of this kind and size to a range, by code of either privilege. -/
def aborting (kind : AccessKind) (size first last : Nat) (s : State) : State :=
  { s with settings := { s.settings with
      memAbort := [⟨first, last, some size, kind, false⟩, ⟨first, last, some size, kind, true⟩] } }

/-- The result is a next state that passes the check. -/
def ends (r : Result) (p : State → Bool) : Bool :=
  match r with
  | .next t => p t
  | .fault _ => false
  | .refused _ => false

/-- The result is this refusal. -/
def refuses (r : Result) (f : Refusal) : Bool :=
  match r with
  | .next _ => false
  | .fault _ => false
  | .refused g => g == f

/-- These bytes stand at rising addresses. -/
def hasBytes (t : State) (a : Word) : List Byte → Bool
  | [] => true
  | b :: rest => t.byte a == some b && hasBytes t (a + 1) rest

/-! ## Well-formedness: each check refuses a term that breaks it alone -/

theorem test_wf_should_be_bits :
    (Instr.clz .al 0 0 15 1).wf = false ∧ (Instr.clz .al 15 0 0 1).wf = false ∧ (Instr.bx .al 0 0).wf = false ∧
    (Instr.blxReg .al 0xFFE 0).wf = false ∧ (Instr.swp .al 2 0 15 1).wf = false ∧ (Instr.swpb .al 2 0 1 1).wf = false ∧
    (Instr.qadd .al 2 0 8 1).wf = false ∧ (Instr.qsub .al 2 0 4 1).wf = false ∧ (Instr.qdadd .al 2 0 2 1).wf = false ∧
    (Instr.qdsub .al 2 0 1 1).wf = false ∧ (Instr.mul .al false 0 1 2 1).wf = false ∧
    (Instr.smulwy .al 0 1 2 false 1).wf = false ∧ (Instr.smulxy .al 0 1 2 false false 1).wf = false ∧
    (Instr.msrReg .al false 9 0 0 0 1).wf = false ∧ (Instr.msrReg .al false 9 15 1 0 1).wf = false ∧
    (Instr.msrReg .al false 9 15 0 2 1).wf = false ∧ (Instr.mrs .al false 0 0 0).wf = false ∧
    (Instr.mrs .al false 15 0 1).wf = false ∧ (Instr.msrImm .al false 9 0 0 0).wf = false ∧
    (Instr.tBx false 0 1).wf = false ∧ (Instr.tBlx2 false 0 4).wf = false := by decide

theorem test_wf_should_be_zero_operands :
    (Instr.strhReg .al true true false 1 0 1 2).wf = false ∧ (Instr.ldrhReg .al true true false 1 0 1 2).wf = false ∧
    (Instr.ldrsbReg .al true true false 1 0 1 2).wf = false ∧ (Instr.ldrshReg .al true true false 1 0 1 2).wf = false ∧
    (Instr.ldrdReg .al true true false 1 2 1 4).wf = false ∧ (Instr.strdReg .al true true false 1 2 1 4).wf = false ∧
    (Instr.tstRegShift .al 0 1 2 .lsl 3).wf = false ∧ (Instr.teqRegShift .al 0 1 2 .lsl 3).wf = false ∧
    (Instr.cmpRegShift .al 0 1 2 .lsl 3).wf = false ∧ (Instr.cmnRegShift .al 0 1 2 .lsl 3).wf = false ∧
    (Instr.movRegShift .al true 1 0 2 .lsl 3).wf = false ∧ (Instr.mvnRegShift .al true 1 0 2 .lsl 3).wf = false ∧
    (Instr.tstImmShift .al 0 1 0 .lsl 3).wf = false ∧ (Instr.teqImmShift .al 0 1 0 .lsl 3).wf = false ∧
    (Instr.cmpImmShift .al 0 1 0 .lsl 3).wf = false ∧ (Instr.cmnImmShift .al 0 1 0 .lsl 3).wf = false ∧
    (Instr.movImmShift .al true 1 0 0 .lsl 3).wf = false ∧ (Instr.mvnImmShift .al true 1 0 0 .lsl 3).wf = false ∧
    (Instr.tstImm .al 0 1 0 3).wf = false ∧ (Instr.teqImm .al 0 1 0 3).wf = false ∧ (Instr.cmpImm .al 0 1 0 3).wf =
        false ∧
    (Instr.cmnImm .al 0 1 0 3).wf = false ∧ (Instr.movImm .al true 1 0 0 3).wf = false ∧
    (Instr.mvnImm .al true 1 0 0 3).wf = false := by decide

theorem test_wf_pc_operands :
    (Instr.pldReg true 0 0 .lsl 15).wf = false ∧ (Instr.clz .al 15 15 15 1).wf = false ∧
    (Instr.clz .al 15 0 15 15).wf = false ∧ (Instr.blxReg .al 0xFFF 15).wf = false ∧ (Instr.swp .al 15 0 0 1).wf =
        false ∧
    (Instr.swp .al 2 15 0 1).wf = false ∧ (Instr.swpb .al 2 0 0 15).wf = false ∧ (Instr.qadd .al 15 0 0 1).wf = false ∧
    (Instr.qsub .al 2 15 0 1).wf = false ∧ (Instr.qdadd .al 2 0 0 15).wf = false ∧ (Instr.qdsub .al 15 0 0 1).wf =
        false ∧
    (Instr.mul .al false 15 0 2 1).wf = false ∧ (Instr.mla .al false 0 15 2 1).wf = false ∧
    (Instr.smlaxy .al 0 15 2 false false 1).wf = false ∧ (Instr.smlawy .al 0 3 15 false 1).wf = false ∧
    (Instr.smulwy .al 0 0 2 false 15).wf = false ∧ (Instr.smulxy .al 15 0 2 false false 1).wf = false ∧
    (Instr.msrReg .al false 9 15 0 0 15).wf = false ∧ (Instr.mrs .al false 15 15 0).wf = false ∧
    (Instr.mcr .al 0 0 15 0 0 0).wf = false ∧ (Instr.mcr2 0 0 15 0 0 0).wf = false ∧
    (Instr.mcrr .al 15 0 0 0 0).wf = false ∧ (Instr.mcrr .al 0 15 0 0 0).wf = false ∧
    (Instr.mrrc .al 15 0 0 0 0).wf = false ∧ (Instr.tBlx2 true 7 0).wf = false ∧
    (Instr.tCmp3 true false 0 7).wf = false := by decide

theorem test_wf_pc_in_register_shifts :
    (Instr.andRegShift .al false 15 0 1 .lsl 2).wf = false ∧ (Instr.eorRegShift .al false 0 15 1 .lsl 2).wf = false ∧
    (Instr.subRegShift .al false 0 0 15 .lsl 2).wf = false ∧ (Instr.rsbRegShift .al false 0 0 1 .lsl 15).wf = false ∧
    (Instr.addRegShift .al false 15 0 1 .lsl 2).wf = false ∧ (Instr.adcRegShift .al false 0 15 1 .lsl 2).wf = false ∧
    (Instr.sbcRegShift .al false 0 0 15 .lsl 2).wf = false ∧ (Instr.rscRegShift .al false 0 0 1 .lsl 15).wf = false ∧
    (Instr.orrRegShift .al false 15 0 1 .lsl 2).wf = false ∧ (Instr.bicRegShift .al false 0 15 1 .lsl 2).wf = false ∧
    (Instr.movRegShift .al false 0 15 1 .lsl 2).wf = false ∧ (Instr.mvnRegShift .al false 0 0 15 .lsl 2).wf = false ∧
    (Instr.tstRegShift .al 15 0 1 .lsl 2).wf = false ∧ (Instr.cmpRegShift .al 0 0 1 .lsl 15).wf = false := by decide

theorem test_wf_register_conflicts :
    (Instr.swp .al 1 0 0 1).wf = false ∧ (Instr.swpb .al 2 2 0 1).wf = false ∧ (Instr.mul .al false 1 0 2 1).wf = false
        ∧
    (Instr.mla .al false 1 0 2 1).wf = false ∧ (Instr.umull .al false 0 0 2 1).wf = false ∧
    (Instr.umlal .al false 1 0 2 1).wf = false ∧ (Instr.smull .al false 0 1 2 1).wf = false ∧
    (Instr.smlal .al false 15 0 2 1).wf = false ∧ (Instr.smlalxy .al 0 0 2 false false 1).wf = false ∧
    (Instr.mrrc .al 3 3 0 0 0).wf = false ∧ (Instr.ldrdReg .al true true false 1 2 0 2).wf = false ∧
    (Instr.ldrdReg .al true true false 1 2 0 3).wf = false := by decide

theorem test_wf_addressing :
    (Instr.ldrImm .al false true true 1 0 4).wf = false ∧ (Instr.ldrImm .al true true true 1 1 4).wf = false ∧
    (Instr.ldrImm .al false true false 15 0 4).wf = false ∧ (Instr.strImm .al true true true 15 0 4).wf = false ∧
    (Instr.ldrReg .al true true false 1 0 0 .lsl 15).wf = false ∧ (Instr.strReg .al true true true 1 0 0 .lsl 1).wf =
        false ∧
    (Instr.ldrbImm .al true true false 1 15 4).wf = false ∧ (Instr.strbReg .al true true false 1 15 0 .lsl 2).wf =
        false ∧
    (Instr.ldrtImm .al true 1 1 4).wf = false ∧ (Instr.ldrtImm .al true 1 15 4).wf = false ∧
    (Instr.strtReg .al true 15 0 0 .lsl 2).wf = false ∧ (Instr.ldrbtReg .al true 1 0 0 .lsl 1).wf = false ∧
    (Instr.strbtImm .al true 1 15 4).wf = false ∧ (Instr.ldrhImm .al false true true 1 0 0 0).wf = false ∧
    (Instr.ldrshImm .al true true false 1 15 0 0).wf = false ∧ (Instr.ldrsbImm .al true true true 1 1 0 0).wf = false ∧
    (Instr.strhReg .al true true true 1 0 0 1).wf = false ∧ (Instr.ldrhReg .al true true false 1 0 0 15).wf = false ∧
    (Instr.ldrdImm .al true true false 1 3 0 0).wf = false ∧ (Instr.strdImm .al true true false 1 14 0 0).wf = false ∧
    (Instr.ldrdImm .al true true true 3 2 0 0).wf = false ∧ (Instr.strdReg .al false true true 1 2 0 4).wf = false ∧
    (Instr.ldc .al true true false true 15 0 0 0).wf = false ∧ (Instr.stc2 false true false true 15 0 0 0).wf = false
        := by
  decide

theorem test_wf_blocks :
    (Instr.ldm1 .al false true false 1 0).wf = false ∧ (Instr.ldm1 .al false true false 15 1).wf = false ∧
    (Instr.ldm1 .al false true true 1 2).wf = false ∧ (Instr.ldm2 .al false true true 1 1).wf = false ∧
    (Instr.ldm2 .al false true false 1 0).wf = false ∧ (Instr.ldm3 .al false true true 13 0x2000).wf = false ∧
    (Instr.ldm3 .al false true false 15 1).wf = false ∧ (Instr.stm1 .al false true false 1 0).wf = false ∧
    (Instr.stm1 .al false true false 15 1).wf = false ∧ (Instr.stm2 .al false true true 1 1).wf = false ∧
    (Instr.stm2 .al false true false 1 0).wf = false ∧ (Instr.tPush false 0).wf = false ∧ (Instr.tPop false 0).wf =
        false ∧
    (Instr.tStmia 0 0).wf = false ∧ (Instr.tLdmia 0 0).wf = false := by decide

theorem test_wf_fields_of_other_rows :
    (Instr.bkpt .eq 0 0).wf = false ∧ (Instr.msrImm .al false 8 15 4 1).wf = false ∧ (Instr.tB1 .al 0).wf = false ∧
    (Instr.tAdd4 false false 1 0).wf = false ∧ (Instr.tMov3 false false 1 0).wf = false ∧
    (Instr.tCmp3 false false 1 0).wf = false ∧ (Instr.ldc .al false false true false 1 0 0 0).wf = false ∧
    (Instr.stc .al false false true false 1 0 0 0).wf = false ∧ (Instr.ldc2 false false true false 1 0 0 0).wf = false ∧
    (Instr.undefUncond 0x8000000).wf = false ∧ (Instr.undefUncond 0x5D1F004).wf = false ∧
    (Instr.undefArith .al 0b00001 0 0).wf = false ∧ (Instr.undefArith .al 0b01000 0 0).wf = false ∧
    (Instr.undefArith .al 0b10000 0 0).wf = false ∧ (Instr.undefArith .al 0b10100 0 0).wf = false ∧
    (Instr.undefCompare .al 0b01 0x30).wf = false ∧ (Instr.undefCompare .al 0b11 0x10).wf = false ∧
    (Instr.tUndefMisc 0b0000 0).wf = false ∧ (Instr.tUndefMisc 0b1110 0).wf = false := by decide

/-! ## Decoding: a word of every row of spec/opcode_table.json, from its mask, match and fields -/

theorem test_decode_arm_1 :
    decode (.arm 0b11110101110111101111111111111111) = .pldImm true 14 4095 ∧
    decode (.arm 0b11110111010101101111001010000001) = .pldReg false 6 5 .lsl 1 ∧
    decode (.arm 0b11111011001111110111110111100001) = .blxImm true 4160993 ∧
    decode (.arm 0b11111100010001101010100101011111) = .undefCoprocExtUncond true 436575 ∧
    decode (.arm 0b11111101011100010111111000000001) = .ldc2 true false true true 1 7 14 1 ∧
    decode (.arm 0b11111100011011100001000100000001) = .stc2 false false true true 14 1 1 1 ∧
    decode (.arm 0b11111110000111100001110000100001) = .cdp2 1 14 1 12 1 1 ∧
    decode (.arm 0b11111110001000011010000010010001) = .mcr2 1 1 10 0 4 1 ∧
    decode (.arm 0b11111110100111101110111001110100) = .mrc2 4 14 14 14 3 4 ∧
    decode (.arm 0b11111111110111110100110011000000) = .undefSwiUncond 14634176 ∧
    decode (.arm 0b11111001111111111111111111111111) = .undefBlockUncond 33554431 ∧
    decode (.arm 0b11110110111111110000100010000101) = .undefUncond 117377157 := by decide

theorem test_decode_arm_2 :
    decode (.arm 0b00100001011011111101111100010011) = .clz .cs 15 13 15 3 ∧
    decode (.arm 0b11100001001011111111111101110001) = .bkpt .al 4095 1 ∧
    decode (.arm 0b00000001001011111111111100011110) = .bx .eq 4095 14 ∧
    decode (.arm 0b00100001001011111111111100111110) = .blxReg .cs 4095 14 ∧
    decode (.arm 0b11010001000000001110000010011110) = .swp .le 0 14 0 14 ∧
    decode (.arm 0b11010001010001110001000010011110) = .swpb .le 7 1 0 14 ∧
    decode (.arm 0b11100001000010011110000001011110) = .qadd .al 9 14 0 14 ∧
    decode (.arm 0b00100001001000011110000001011010) = .qsub .cs 1 14 0 10 ∧
    decode (.arm 0b10000001010001010101000001011001) = .qdadd .hi 5 5 0 9 ∧
    decode (.arm 0b00000001011011101110000001010001) = .qdsub .eq 14 14 0 1 ∧
    decode (.arm 0b11010000000100010000100110011001) = .mul .le true 1 0 9 9 ∧
    decode (.arm 0b10000000001100010010111010010000) = .mla .hi true 1 2 14 0 := by decide

theorem test_decode_arm_3 :
    decode (.arm 0b10100000100111100101000110010100) = .umull .ge true 14 5 1 4 ∧
    decode (.arm 0b10100000101111100010101110011100) = .umlal .ge true 14 2 11 12 ∧
    decode (.arm 0b11100000110101101010111010011000) = .smull .al true 6 10 14 8 ∧
    decode (.arm 0b00010000111101100001110010010010) = .smlal .ne true 6 1 12 2 ∧
    decode (.arm 0b11100001111100111001100010010001) = .undefArith .al 31 920 1 ∧
    decode (.arm 0b10100001000000010001111010000001) = .smlaxy .ge 1 1 14 false false 1 ∧
    decode (.arm 0b00010001001000010001000111001011) = .smlawy .ne 1 1 1 true 11 ∧
    decode (.arm 0b11010001001000010000111010101110) = .smulwy .le 1 0 14 false 14 ∧
    decode (.arm 0b00010001010011101101110010101011) = .smlalxy .ne 14 13 12 false true 11 ∧
    decode (.arm 0b10000001011010010000010111101110) = .smulxy .hi 9 0 5 true true 14 ∧
    decode (.arm 0b00000001011000101111000000001110) = .msrReg .eq true 2 15 0 0 14 ∧
    decode (.arm 0b00100001100001111110000010111110) = .strhReg .cs true true false 7 14 0 14 := by decide

theorem test_decode_arm_4 :
    decode (.arm 0b00010001100101001101000010111110) = .ldrhReg .ne true true false 4 13 0 14 ∧
    decode (.arm 0b11100001101100010101000011011110) = .ldrsbReg .al true true true 1 5 0 14 ∧
    decode (.arm 0b10000001001110000001000011110000) = .ldrshReg .hi true false true 8 1 0 0 ∧
    decode (.arm 0b11010001011001110001000010111011) = .strhImm .le true false true 7 1 0 11 ∧
    decode (.arm 0b10100001110101001110000110110011) = .ldrhImm .ge true true false 4 14 1 3 ∧
    decode (.arm 0b11010001101001110010000011011000) = .ldrdReg .le true true true 7 2 0 8 ∧
    decode (.arm 0b00000001101000011000000011111001) = .strdReg .eq true true true 1 8 0 9 ∧
    decode (.arm 0b11010001110000111100011111011011) = .ldrdImm .le true true false 3 12 7 11 ∧
    decode (.arm 0b11100001011000010110111011110001) = .strdImm .al true false true 1 6 14 1 ∧
    decode (.arm 0b00000001110111101110000111010001) = .ldrsbImm .eq true true false 14 14 1 1 ∧
    decode (.arm 0b10100001110101100000000111110000) = .ldrshImm .ge true true false 6 0 1 0 ∧
    decode (.arm 0b11100001010011110110000000000000) = .mrs .al true 15 6 0 := by decide

theorem test_decode_arm_5 :
    decode (.arm 0b00000011011000011111000111111111) = .msrImm .eq true 1 15 1 255 ∧
    decode (.arm 0b11010011000011010000011000101110) = .undefImmCompare .le false 853550 ∧
    decode (.arm 0b10000001011011000100001101110110) = .undefCompare .hi 3 803702 ∧
    decode (.arm 0b11101110100010010100001001000001) = .cdp .al 8 9 4 2 2 1 ∧
    decode (.arm 0b10001110001010110100111000110001) = .mcr .hi 1 11 4 14 1 1 ∧
    decode (.arm 0b00011110111101001110101111111011) = .mrc .ne 7 4 14 11 7 11 ∧
    decode (.arm 0b00010000000100011110000101010111) = .andRegShift .ne true 1 14 1 .asr 7 ∧
    decode (.arm 0b00010000001111000101000101110011) = .eorRegShift .ne true 12 5 1 .ror 3 ∧
    decode (.arm 0b11100000010111000001111000110001) = .subRegShift .al true 12 1 14 .lsr 1 ∧
    decode (.arm 0b11010000011000000011011101011011) = .rsbRegShift .le false 0 3 7 .asr 11 ∧
    decode (.arm 0b00100000100010000001011001111011) = .addRegShift .cs false 8 1 6 .ror 11 ∧
    decode (.arm 0b11100000101001100110000101010010) = .adcRegShift .al false 6 6 1 .asr 2 := by decide

theorem test_decode_arm_6 :
    decode (.arm 0b00100000110111000001110101011110) = .sbcRegShift .cs true 12 1 13 .asr 14 ∧
    decode (.arm 0b10100000111110010001001001110001) = .rscRegShift .ge true 9 1 2 .ror 1 ∧
    decode (.arm 0b10100001000111100000101100110000) = .tstRegShift .ge 14 0 11 .lsr 0 ∧
    decode (.arm 0b10000001001111100000101100110011) = .teqRegShift .hi 14 0 11 .lsr 3 ∧
    decode (.arm 0b11010001010101000000110001111010) = .cmpRegShift .le 4 0 12 .ror 10 ∧
    decode (.arm 0b00010001011111000000000101110000) = .cmnRegShift .ne 12 0 1 .ror 0 ∧
    decode (.arm 0b00100001100010001110001100110001) = .orrRegShift .cs false 8 14 3 .lsr 1 ∧
    decode (.arm 0b11100001101100000111000101111110) = .movRegShift .al true 0 7 1 .ror 14 ∧
    decode (.arm 0b00010001110100010001010100111110) = .bicRegShift .ne true 1 1 5 .lsr 14 ∧
    decode (.arm 0b10100001111100000011000101110011) = .mvnRegShift .ge true 0 3 1 .ror 3 ∧
    decode (.arm 0b11100000000111101110111011001001) = .andImmShift .al true 14 14 29 .asr 9 ∧
    decode (.arm 0b10000000001111101110101101101011) = .eorImmShift .hi true 14 14 22 .ror 11 := by decide

theorem test_decode_arm_7 :
    decode (.arm 0b00010000010111100001111110100001) = .subImmShift .ne true 14 1 31 .lsr 1 ∧
    decode (.arm 0b10000000011100000001110000100001) = .rsbImmShift .hi true 0 1 24 .lsr 1 ∧
    decode (.arm 0b00010000100000010000111110101110) = .addImmShift .ne false 1 0 31 .lsr 14 ∧
    decode (.arm 0b00100000101100011110001001101111) = .adcImmShift .cs true 1 14 4 .ror 15 ∧
    decode (.arm 0b00100000110111001110000001100011) = .sbcImmShift .cs true 12 14 0 .ror 3 ∧
    decode (.arm 0b00100000111111100100101000100101) = .rscImmShift .cs true 14 4 20 .lsr 5 ∧
    decode (.arm 0b11100001000100010000000011100000) = .tstImmShift .al 1 0 1 .ror 0 ∧
    decode (.arm 0b10100001001100010000000010101111) = .teqImmShift .ge 1 0 1 .lsr 15 ∧
    decode (.arm 0b10000001010111100000001011001110) = .cmpImmShift .hi 14 0 5 .asr 14 ∧
    decode (.arm 0b11100001011111110000101111101110) = .cmnImmShift .al 15 0 23 .ror 14 ∧
    decode (.arm 0b10100001100111101110000011101110) = .orrImmShift .ge true 14 14 1 .ror 14 ∧
    decode (.arm 0b00100001101100000111111000101110) = .movImmShift .cs true 0 7 28 .lsr 14 := by decide

theorem test_decode_arm_8 :
    decode (.arm 0b11100001110011101011111111000000) = .bicImmShift .al false 14 11 31 .asr 0 ∧
    decode (.arm 0b11010001111000000001000111101010) = .mvnImmShift .le false 0 1 3 .ror 10 ∧
    decode (.arm 0b11100110101011000001000001101110) = .strtReg .al true 12 1 0 .ror 14 ∧
    decode (.arm 0b11010110101100010100111011101110) = .ldrtReg .le true 1 4 29 .ror 14 ∧
    decode (.arm 0b11100110111000011110000010101100) = .strbtReg .al true 1 14 1 .lsr 12 ∧
    decode (.arm 0b11100110011101110001000011101110) = .ldrbtReg .al false 7 1 1 .ror 14 ∧
    decode (.arm 0b00100111100011100111101110000000) = .strReg .cs true true false 14 7 23 .lsl 0 ∧
    decode (.arm 0b00010110000111011011000010100001) = .ldrReg .ne false false false 13 11 1 .lsr 1 ∧
    decode (.arm 0b11010111111010110110111110100010) = .strbReg .le true true true 11 6 31 .lsr 2 ∧
    decode (.arm 0b00100111110111100001111110000001) = .ldrbReg .cs true true false 14 1 31 .lsl 1 ∧
    decode (.arm 0b00010111111111111111111111111110) = .undefMedia .ne 1048575 14 ∧
    decode (.arm 0b10001111001110110000000001110000) = .swi .hi 3866736 := by decide

theorem test_decode_arm_9 :
    decode (.arm 0b10000010000111001100111000000001) = .andImm .hi true 12 12 14 1 ∧
    decode (.arm 0b10100010001111001001001011111111) = .eorImm .ge true 12 9 2 255 ∧
    decode (.arm 0b11100010010111100001000111111111) = .subImm .al true 14 1 1 255 ∧
    decode (.arm 0b11100010011100011001111011111111) = .rsbImm .al true 1 9 14 255 ∧
    decode (.arm 0b11100010100111100000111010111001) = .addImm .al true 14 0 14 185 ∧
    decode (.arm 0b11100010101010010001000100000001) = .adcImm .al false 9 1 1 1 ∧
    decode (.arm 0b10100010110111100001101011101011) = .sbcImm .ge true 14 1 10 235 ∧
    decode (.arm 0b10100010111100011110011000000001) = .rscImm .ge true 1 14 6 1 ∧
    decode (.arm 0b11100011000110110000000101111101) = .tstImm .al 11 0 1 125 ∧
    decode (.arm 0b10100011001111100000000101010110) = .teqImm .ge 14 0 1 86 ∧
    decode (.arm 0b10100011010111100000011111110111) = .cmpImm .ge 14 0 7 247 ∧
    decode (.arm 0b11100011011101010000000111111111) = .cmnImm .al 5 0 1 255 := by decide

theorem test_decode_arm_10 :
    decode (.arm 0b11100011100111100000110011101000) = .orrImm .al true 14 0 12 232 ∧
    decode (.arm 0b11010011101100000001111010101001) = .movImm .le true 0 1 14 169 ∧
    decode (.arm 0b00000011110111101110111000100000) = .bicImm .eq true 14 14 14 32 ∧
    decode (.arm 0b11100011111000001011000101001001) = .mvnImm .al false 0 11 1 73 ∧
    decode (.arm 0b11100100001010111110101000010000) = .strtImm .al false 11 14 2576 ∧
    decode (.arm 0b11100100101100111110100000000001) = .ldrtImm .al true 3 14 2049 ∧
    decode (.arm 0b00100100111010010001011110110110) = .strbtImm .cs true 9 1 1974 ∧
    decode (.arm 0b00000100111100111011101111111011) = .ldrbtImm .eq true 3 11 3067 ∧
    decode (.arm 0b10000100100001000001111111111111) = .strImm .hi false true false 4 1 4095 ∧
    decode (.arm 0b00100101001100010110000000000001) = .ldrImm .cs true false true 1 6 1 ∧
    decode (.arm 0b00010101111000011000111111111111) = .strbImm .ne true true true 1 8 4095 ∧
    decode (.arm 0b11100101111111000111111111111111) = .ldrbImm .al true true true 12 7 4095 := by decide

theorem test_decode_arm_11 :
    decode (.arm 0b00101001101111100000000000000001) = .ldm1 .cs true true true 14 1 ∧
    decode (.arm 0b11101000110100010000000000000001) = .ldm2 .al false true false 1 1 ∧
    decode (.arm 0b11101000110100101110000110011001) = .ldm3 .al false true false 2 24985 ∧
    decode (.arm 0b11011001101000010111100000100111) = .stm1 .le true true true 1 30759 ∧
    decode (.arm 0b00001000110000111100101111001000) = .stm2 .eq false true false 3 52168 ∧
    decode (.arm 0b10001010101010111101011111111111) = .b .hi 11261951 ∧
    decode (.arm 0b10001011000000000000000000000001) = .bl .hi 1 ∧
    decode (.arm 0b11011100000001000010111100100001) = .undefCoprocExt .le 274209 ∧
    decode (.arm 0b00011100010000011000111001101110) = .mcrr .ne 1 8 14 6 14 ∧
    decode (.arm 0b11101100010110100111000111100011) = .mrrc .al 10 7 1 14 3 ∧
    decode (.arm 0b10001100101111101010000110111101) = .ldc .hi false true false true 14 10 1 189 ∧
    decode (.arm 0b10101101101000100111000111111111) = .stc .ge true true false true 2 7 1 255 := by decide

theorem test_decode_thumb_1 :
    decode (.thumb 0b0001100001110101) = .tAdd3 1 6 5 ∧
    decode (.thumb 0b0001101100010001) = .tSub3 4 2 1 ∧
    decode (.thumb 0b0001110111111111) = .tAdd1 7 7 7 ∧
    decode (.thumb 0b0001111000001010) = .tSub1 0 1 2 ∧
    decode (.thumb 0b0000000001001001) = .tLsl1 1 1 1 ∧
    decode (.thumb 0b0000101001001111) = .tLsr1 9 1 7 ∧
    decode (.thumb 0b0001010010000111) = .tAsr1 18 0 7 ∧
    decode (.thumb 0b0010001111011011) = .tMov1 3 219 ∧
    decode (.thumb 0b0010100110101000) = .tCmp1 1 168 ∧
    decode (.thumb 0b0011000100100100) = .tAdd2 1 36 ∧
    decode (.thumb 0b0011110000011100) = .tSub2 4 28 ∧
    decode (.thumb 0b0100000000111100) = .tAnd 7 4 := by decide

theorem test_decode_thumb_2 :
    decode (.thumb 0b0100000001110100) = .tEor 6 4 ∧
    decode (.thumb 0b0100000010100001) = .tLsl2 4 1 ∧
    decode (.thumb 0b0100000011100001) = .tLsr2 4 1 ∧
    decode (.thumb 0b0100000100110000) = .tAsr2 6 0 ∧
    decode (.thumb 0b0100000101111000) = .tAdc 7 0 ∧
    decode (.thumb 0b0100000110000011) = .tSbc 0 3 ∧
    decode (.thumb 0b0100000111001001) = .tRor 1 1 ∧
    decode (.thumb 0b0100001000001001) = .tTst 1 1 ∧
    decode (.thumb 0b0100001001001111) = .tNeg 1 7 ∧
    decode (.thumb 0b0100001010100001) = .tCmp2 4 1 ∧
    decode (.thumb 0b0100001011111001) = .tCmn 7 1 ∧
    decode (.thumb 0b0100001100100010) = .tOrr 4 2 := by decide

theorem test_decode_thumb_3 :
    decode (.thumb 0b0100001101111000) = .tMul 7 0 ∧
    decode (.thumb 0b0100001110001111) = .tBic 1 7 ∧
    decode (.thumb 0b0100001111001111) = .tMvn 1 7 ∧
    decode (.thumb 0b0100010011100111) = .tAdd4 true true 4 7 ∧
    decode (.thumb 0b0100010111001011) = .tCmp3 true true 1 3 ∧
    decode (.thumb 0b0100011011110111) = .tMov3 true true 6 7 ∧
    decode (.thumb 0b0100011101001000) = .tBx true 1 0 ∧
    decode (.thumb 0b0100011110001000) = .tBlx2 false 1 0 ∧
    decode (.thumb 0b0100111111101000) = .tLdr3 7 232 ∧
    decode (.thumb 0b0101000001111001) = .tStr2 1 7 1 ∧
    decode (.thumb 0b0101001100111001) = .tStrh2 4 7 1 ∧
    decode (.thumb 0b0101010011001001) = .tStrb2 3 1 1 := by decide

theorem test_decode_thumb_4 :
    decode (.thumb 0b0101011111111001) = .tLdrsb 7 7 1 ∧
    decode (.thumb 0b0101100001000110) = .tLdr2 1 0 6 ∧
    decode (.thumb 0b0101101100111001) = .tLdrh2 4 7 1 ∧
    decode (.thumb 0b0101110101100101) = .tLdrb2 5 4 5 ∧
    decode (.thumb 0b0101111110111001) = .tLdrsh 6 7 1 ∧
    decode (.thumb 0b0110011111111001) = .tStr1 31 7 1 ∧
    decode (.thumb 0b0110110100001111) = .tLdr1 20 1 7 ∧
    decode (.thumb 0b0111011110111111) = .tStrb1 30 7 7 ∧
    decode (.thumb 0b0111111111111111) = .tLdrb1 31 7 7 ∧
    decode (.thumb 0b1000000001111111) = .tStrh1 1 7 7 ∧
    decode (.thumb 0b1000111111100101) = .tLdrh1 31 4 5 ∧
    decode (.thumb 0b1001000111111111) = .tStr3 1 255 := by decide

theorem test_decode_thumb_5 :
    decode (.thumb 0b1001101111010111) = .tLdr4 3 215 ∧
    decode (.thumb 0b1010011010000111) = .tAdd5 6 135 ∧
    decode (.thumb 0b1010100111110000) = .tAdd6 1 240 ∧
    decode (.thumb 0b1011000000000001) = .tAdd7 1 ∧
    decode (.thumb 0b1011000011111111) = .tSub4 127 ∧
    decode (.thumb 0b1011010111111111) = .tPush true 255 ∧
    decode (.thumb 0b1011110101101101) = .tPop true 109 ∧
    decode (.thumb 0b1011111011111111) = .tBkpt 255 ∧
    decode (.thumb 0b1011111100000001) = .tUndefMisc 15 1 ∧
    decode (.thumb 0b1100010011000101) = .tStmia 4 197 ∧
    decode (.thumb 0b1100110011111111) = .tLdmia 4 255 ∧
    decode (.thumb 0b1101111010100110) = .tUndefCond 166 := by decide

theorem test_decode_thumb_6 :
    decode (.thumb 0b1101111110101111) = .tSwi 175 ∧
    decode (.thumb 0b1101001011111111) = .tB1 .cs 255 ∧
    decode (.thumb 0b1110000000000001) = .tB2 1 ∧
    decode (.thumb 0b1110101110110001) = .tUndefBlx 472 ∧
    decode (.thumb 0b1110111111111110) = .tBlx1Suffix 1023 ∧
    decode (.thumb 0b1111011111111111) = .tBlPrefix 2047 ∧
    decode (.thumb 0b1111100000000001) = .tBlSuffix 1 := by decide

/-! ## Steps -/

/-! ### Data processing (spec/95, parts 4 and 5) -/

theorem test_andImmShift :
    ends (step ((machine 0x20000010 0x8000 [(1, 0xF0F0F0F0), (2, 0x80000000)] []).withFetchWord 32 0xE0110002))
      (fun t => t.x 0 == 0x80000000 && t.cpsr == 0xA0000010 && t.pc == 0x8004) = true := by decide

theorem test_eorImmShift :
    ends (step ((machine 0x10 0x8000 [(1, 0xFFFFFFFF), (2, 0x1FFFFFFF)] []).withFetchWord 32 0xE0310182))
      (fun t => t.x 0 == 7 && t.cpsr == 0x10 && t.pc == 0x8004) = true := by decide

theorem test_subImmShift :
    ends (step ((machine 0x10 0x8000 [(1, 0x80000000), (2, 1)] []).withFetchWord 32 0xE0510002))
      (fun t => t.x 0 == 0x7FFFFFFF && t.cpsr == 0x30000010 && t.pc == 0x8004) = true := by decide

theorem test_rsbImm :
    ends (step ((machine 0x10 0x8000 [(1, 0x80000000)] []).withFetchWord 32 0xE2710000))
      (fun t => t.x 0 == 0x80000000 && t.cpsr == 0x90000010 && t.pc == 0x8004) = true := by decide

theorem test_addImmShift :
    ends (step ((machine 0x10 0x8000 [(1, 0x80000000), (2, 0x80000000)] []).withFetchWord 32 0xE0910002))
      (fun t => t.x 0 == 0 && t.cpsr == 0x70000010 && t.pc == 0x8004) = true := by decide

theorem test_adcImmShift :
    ends (step ((machine 0x20000010 0x8000 [(1, 0x7FFFFFFF), (2, 0)] []).withFetchWord 32 0xE0B10002))
      (fun t => t.x 0 == 0x80000000 && t.cpsr == 0x90000010 && t.pc == 0x8004) = true := by decide

theorem test_sbcImmShift :
    ends (step ((machine 0x10 0x8000 [(1, 0x80000000), (2, 0)] []).withFetchWord 32 0xE0D10002))
      (fun t => t.x 0 == 0x7FFFFFFF && t.cpsr == 0x30000010 && t.pc == 0x8004) = true := by decide

theorem test_rscImmShift :
    ends (step ((machine 0x20000010 0x8000 [(1, 1), (2, 3)] []).withFetchWord 32 0xE0F10002))
      (fun t => t.x 0 == 2 && t.cpsr == 0x20000010 && t.pc == 0x8004) = true := by decide

theorem test_tstImm :
    ends (step ((machine 0x10 0x8000 [(1, 0x80000000)] []).withFetchWord 32 0xE3110102))
      (fun t => t.cpsr == 0xA0000010 && t.pc == 0x8004) = true := by decide

theorem test_teqImmShift :
    ends (step ((machine 0x20000010 0x8000 [(1, 0xAAAAAAAA), (2, 0xAAAAAAAA)] []).withFetchWord 32 0xE1310002))
      (fun t => t.cpsr == 0x60000010 && t.pc == 0x8004) = true := by decide

theorem test_cmpImmShift :
    ends (step ((machine 0x10 0x8000 [(1, 0x80000000), (2, 0x7FFFFFFF)] []).withFetchWord 32 0xE1510002))
      (fun t => t.cpsr == 0x30000010 && t.pc == 0x8004) = true := by decide

theorem test_cmnImmShift :
    ends (step ((machine 0x10 0x8000 [(1, 0xFFFFFFFF), (2, 1)] []).withFetchWord 32 0xE1710002))
      (fun t => t.cpsr == 0x60000010 && t.pc == 0x8004) = true := by decide

theorem test_orrImm :
    ends (step ((machine 0x10 0x8000 [(1, 0x100)] []).withFetchWord 32 0xE39102FF))
      (fun t => t.x 0 == 0xF000010F && t.cpsr == 0xA0000010 && t.pc == 0x8004) = true := by decide

theorem test_bicImm :
    ends (step ((machine 0x20000010 0x8000 [(1, 0xFFFFFFFF)] []).withFetchWord 32 0xE3D100FF))
      (fun t => t.x 0 == 0xFFFFFF00 && t.cpsr == 0xA0000010 && t.pc == 0x8004) = true := by decide

theorem test_mvnImm :
    ends (step ((machine 0x10 0x8000 [] []).withFetchWord 32 0xE3F00000))
      (fun t => t.x 0 == 0xFFFFFFFF && t.cpsr == 0x80000010 && t.pc == 0x8004) = true := by decide

theorem test_movImm :
    ends (step ((machine 0x10 0x8000 [] []).withFetchWord 32 0xE3B004FF))
      (fun t => t.x 0 == 0xFF000000 && t.cpsr == 0xA0000010 && t.pc == 0x8004) = true := by decide

theorem test_movImmShift :
    ends (step ((machine 0x10 0x8000 [(1, 1)] []).withFetchWord 32 0xE1B00061))
      (fun t => t.x 0 == 0 && t.cpsr == 0x60000010 && t.pc == 0x8004) = true := by decide

theorem test_movImmShift_2 :
    ends (step ((machine 0x10 0x8000 [(1, 0x80000000)] []).withFetchWord 32 0xE1B00021))
      (fun t => t.x 0 == 0 && t.cpsr == 0x60000010 && t.pc == 0x8004) = true := by decide

theorem test_movRegShift :
    ends (step ((machine 0x20000010 0x8000 [(1, 1), (2, 0x21)] []).withFetchWord 32 0xE1B00211))
      (fun t => t.x 0 == 0 && t.cpsr == 0x40000010 && t.pc == 0x8004) = true := by decide

theorem test_movRegShift_2 :
    ends (step ((machine 0x10 0x8000 [(1, 0x80000001), (2, 0x21)] []).withFetchWord 32 0xE1B00271))
      (fun t => t.x 0 == 0xC0000000 && t.cpsr == 0xA0000010 && t.pc == 0x8004) = true := by decide

theorem test_movImm_2 :
    ends (step ((machine 0x20000010 0x8000 [] []).withFetchWord 32 0xE3B00110))
      (fun t => t.x 0 == 4 && t.cpsr == 0x10 && t.pc == 0x8004) = true := by decide

/-! ### Multiplies (part 6) -/

theorem test_mul :
    ends (step ((machine 0x30000010 0x8000 [(1, 0xFFFFFFFF), (2, 2)] []).withFetchWord 32 0xE0100291))
      (fun t => t.x 0 == 0xFFFFFFFE && t.cpsr == 0xB0000010 && t.pc == 0x8004) = true := by decide

theorem test_mla :
    ends (step ((machine 0x10 0x8000 [(1, 3), (2, 4), (3, 5)] []).withFetchWord 32 0xE0203291))
      (fun t => t.x 0 == 0x11 && t.cpsr == 0x10 && t.pc == 0x8004) = true := by decide

theorem test_umull :
    ends (step ((machine 0x10 0x8000 [(2, 0xFFFFFFFF), (3, 0xFFFFFFFF)] []).withFetchWord 32 0xE0810392))
      (fun t => t.x 1 == 0xFFFFFFFE && t.x 0 == 1 && t.cpsr == 0x10 && t.pc == 0x8004) = true := by decide

theorem test_umlal :
    ends (step ((machine 0x10 0x8000 [(0, 0xFFFFFFFF), (1, 0xFFFFFFFF), (2, 1), (3, 1)] []).withFetchWord 32
        0xE0A10392))
      (fun t => t.x 1 == 0 && t.x 0 == 0 && t.cpsr == 0x10 && t.pc == 0x8004) = true := by decide

theorem test_smull :
    ends (step ((machine 0x10 0x8000 [(2, 0xFFFFFFFF), (3, 2)] []).withFetchWord 32 0xE0C10392))
      (fun t => t.x 1 == 0xFFFFFFFF && t.x 0 == 0xFFFFFFFE && t.cpsr == 0x10 && t.pc == 0x8004) = true := by decide

theorem test_smlal :
    ends (step ((machine 0x10 0x8000 [(0, 1), (1, 0), (2, 0xFFFFFFFF), (3, 1)] []).withFetchWord 32 0xE0F10392))
      (fun t => t.x 1 == 0 && t.x 0 == 0 && t.cpsr == 0x40000010 && t.pc == 0x8004) = true := by decide

theorem test_smulxy :
    ends (step ((machine 0x10 0x8000 [(1, 0x20003), (2, 0x50007)] []).withFetchWord 32 0xE16002C1))
      (fun t => t.x 0 == 0xF && t.cpsr == 0x10 && t.pc == 0x8004) = true := by decide

theorem test_smlaxy :
    ends (step ((machine 0x10 0x8000 [(1, 0x7FFF), (2, 0x7FFF), (3, 0x7FFFFFFF)] []).withFetchWord 32 0xE1003281))
      (fun t => t.x 0 == 0xBFFF0000 && t.cpsr == 0x8000010 && t.pc == 0x8004) = true := by decide

theorem test_smlawy :
    ends (step ((machine 0x10 0x8000 [(1, 0x7FFFFFFF), (2, 0x7FFF0000), (3, 0x7FFFFFFF)] []).withFetchWord 32
        0xE12032C1))
      (fun t => t.x 0 == 0xBFFF7FFE && t.cpsr == 0x8000010 && t.pc == 0x8004) = true := by decide

theorem test_smulwy :
    ends (step ((machine 0x10 0x8000 [(1, 0xFFFFFFFF), (2, 1)] []).withFetchWord 32 0xE12002A1))
      (fun t => t.x 0 == 0xFFFFFFFF && t.cpsr == 0x10 && t.pc == 0x8004) = true := by decide

theorem test_smlalxy :
    ends (step ((machine 0x10 0x8000 [(0, 0), (1, 0), (2, 0xFFFF0000), (3, 1)] []).withFetchWord 32 0xE14103A2))
      (fun t => t.x 1 == 0xFFFFFFFF && t.x 0 == 0xFFFFFFFF && t.cpsr == 0x10 && t.pc == 0x8004) = true := by decide

/-! ### Saturating arithmetic (part 7) -/

theorem test_qadd :
    ends (step ((machine 0x10 0x8000 [(1, 0x7FFFFFFF), (2, 1)] []).withFetchWord 32 0xE1020051))
      (fun t => t.x 0 == 0x7FFFFFFF && t.cpsr == 0x8000010 && t.pc == 0x8004) = true := by decide

theorem test_qsub :
    ends (step ((machine 0x10 0x8000 [(1, 0), (2, 0x80000000)] []).withFetchWord 32 0xE1220051))
      (fun t => t.x 0 == 0x7FFFFFFF && t.cpsr == 0x8000010 && t.pc == 0x8004) = true := by decide

theorem test_qdadd :
    ends (step ((machine 0x10 0x8000 [(1, 0xFFFFFFFF), (2, 0x40000000)] []).withFetchWord 32 0xE1420051))
      (fun t => t.x 0 == 0x7FFFFFFE && t.cpsr == 0x8000010 && t.pc == 0x8004) = true := by decide

theorem test_qdsub :
    ends (step ((machine 0x10 0x8000 [(1, 0), (2, 0x40000000)] []).withFetchWord 32 0xE1620051))
      (fun t => t.x 0 == 0x80000001 && t.cpsr == 0x8000010 && t.pc == 0x8004) = true := by decide

/-! ### CLZ (part 8) -/

theorem test_clz :
    ends (step ((machine 0x10 0x8000 [(1, 0)] []).withFetchWord 32 0xE16F0F11))
      (fun t => t.x 0 == 0x20 && t.cpsr == 0x10 && t.pc == 0x8004) = true := by decide

/-! ### Status registers (part 9) -/

theorem test_mrs :
    ends (step (((machine 0xD3 0x8000 [] []).setSpsr 0xF8000010).withFetchWord 32 0xE14F0000))
      (fun t => t.x 0 == 0xF8000010 && t.cpsr == 0xD3) = true := by decide

theorem test_msrImm :
    ends (step ((machine 0x60000010 0x8000 [] []).withFetchWord 32 0xE321F01F))
      (fun t => t.cpsr == 0x60000010) = true := by decide

theorem test_msrReg :
    ends (step ((machine 0x13 0x8000 [(1, 0xA00000D2)] []).withFetchWord 32 0xE129F001))
      (fun t => t.cpsr == 0xA00000D2) = true := by decide

theorem test_msrReg_2 :
    ends (step ((machine 0x10 0x8000 [(1, 0xA00000D2)] []).withFetchWord 32 0xE129F001))
      (fun t => t.cpsr == 0xA0000010) = true := by decide

theorem test_msrReg_3 :
    ends (step (((machine 0xD3 0x8000 [(1, 0xF8000030)] []).setSpsr 0).withFetchWord 32 0xE169F001))
      (fun t => t.cpsr == 0xD3 && t.spsr? == some 0xF8000030) = true := by decide

/-! ### Loads and stores (part 10) -/

theorem test_ldrImm :
    ends (step ((machine 0x10 0x8000 [(1, 0x1001)] [(0x1000, [0x11, 0x22, 0x33, 0x44])]).withFetchWord 32 0xE5910000))
      (fun t => t.x 0 == 0x11443322 && t.pc == 0x8004 && t.cpsr == 0x10) = true := by decide

theorem test_ldrImm_2 :
    ends (step ((bigEndian (machine 0x10 0x8000 [(1, 0x1001)] [(0x1000, [0x11, 0x22, 0x33, 0x44])])).withFetchWord 32
        0xE5910000))
      (fun t => t.x 0 == 0x44112233 && t.pc == 0x8004 && t.cpsr == 0x10) = true := by decide

theorem test_ldrImm_3 :
    ends (step ((machine 0x10 0x8000 [(1, 0x1000)]
        [(0x1000, [0x11, 0x22, 0x33, 0x44, 0x55, 0x66, 0x77, 0x88])]).withFetchWord 32 0xE4910004))
      (fun t => t.x 0 == 0x44332211 && t.x 1 == 0x1004 && t.pc == 0x8004 && t.cpsr == 0x10) = true := by decide

theorem test_ldrReg :
    ends (step ((machine 0x10 0x8000 [(1, 0x1008), (2, 8)]
        [(0x1000, [0x11, 0x22, 0x33, 0x44, 0x55, 0x66, 0x77, 0x88])]).withFetchWord 32 0xE71100C2))
      (fun t => t.x 0 == 0x88776655 && t.pc == 0x8004 && t.cpsr == 0x10) = true := by decide

theorem test_ldrbImm :
    ends (step ((bigEndian (machine 0x10 0x8000 [(1, 0x1000)] [(0x1000, [0x11, 0x22, 0x33, 0x44])])).withFetchWord 32
        0xE5D10001))
      (fun t => t.x 0 == 0x22 && t.pc == 0x8004 && t.cpsr == 0x10) = true := by decide

theorem test_strImm :
    ends (step ((machine 0x10 0x8000 [(0, 0xAABBCCDD), (1, 0x1002)]
        [(0x1000, [0x00, 0x00, 0x00, 0x00, 0x00, 0x00, 0x00, 0x00])]).withFetchWord 32 0xE5810000))
      (fun t => t.pc == 0x8004 && t.cpsr == 0x10 && hasBytes t 0x1000 [0xDD, 0xCC, 0xBB, 0xAA, 0x00, 0x00, 0x00, 0x00])
          = true := by decide

theorem test_strbImm :
    ends (step ((machine 0x10 0x8000 [(0, 0xAABBCCDD), (1, 0x1001)] [(0x1000, [0x11, 0x22, 0x33, 0x44])]).withFetchWord
        32 0xE4C10001))
      (fun t => t.x 1 == 0x1002 && t.pc == 0x8004 && t.cpsr == 0x10 && hasBytes t 0x1000 [0x11, 0xDD, 0x33, 0x44]) =
          true := by decide

theorem test_strImm_2 :
    ends (step ((machine 0x10 0x8000 [(1, 0x1000)] []).withFetchWord 32 0xE581F000))
      (fun t => t.pc == 0x8004 && t.cpsr == 0x10 && hasBytes t 0x1000 [0x0C, 0x80, 0x00, 0x00]) = true := by decide

theorem test_ldrhImm :
    ends (step ((bigEndian (machine 0x10 0x8000 [(1, 0x1000)] [(0x1000, [0x11, 0x22, 0x33, 0x44])])).withFetchWord 32
        0xE1D100B0))
      (fun t => t.x 0 == 0x1122 && t.pc == 0x8004 && t.cpsr == 0x10) = true := by decide

theorem test_ldrshImm :
    ends (step ((machine 0x10 0x8000 [(1, 0x1000)] [(0x1000, [0x00, 0x00, 0x80, 0x7F])]).withFetchWord 32 0xE1D100F2))
      (fun t => t.x 0 == 0x7F80 && t.pc == 0x8004 && t.cpsr == 0x10) = true := by decide

theorem test_ldrsbImm :
    ends (step ((machine 0x10 0x8000 [(1, 0x1003)] [(0x1000, [0x00, 0x00, 0x00, 0x80])]).withFetchWord 32 0xE1D100D0))
      (fun t => t.x 0 == 0xFFFFFF80 && t.pc == 0x8004 && t.cpsr == 0x10) = true := by decide

theorem test_ldrdImm :
    ends (step ((bigEndian (machine 0x10 0x8000 [(1, 0x1000)]
        [(0x1000, [0x11, 0x22, 0x33, 0x44, 0x55, 0x66, 0x77, 0x88])])).withFetchWord 32 0xE1C120D0))
      (fun t => t.x 2 == 0x11223344 && t.x 3 == 0x55667788 && t.pc == 0x8004 && t.cpsr == 0x10) = true := by decide

theorem test_strdImm :
    ends (step ((machine 0x10 0x8000 [(1, 0x1000), (2, 0x44332211), (3, 0x88776655)] []).withFetchWord 32 0xE0C120F8))
      (fun t => t.x 1 == 0x1008 && t.pc == 0x8004 && t.cpsr == 0x10 && hasBytes t 0x1000
          [0x11, 0x22, 0x33, 0x44, 0x55, 0x66, 0x77, 0x88]) = true := by decide

theorem test_strhImm :
    ends (step ((bigEndian (machine 0x10 0x8000 [(0, 0xAABBCCDD), (1, 0x1000)]
        [(0x1000, [0x00, 0x00, 0x00, 0x00])])).withFetchWord 32 0xE1C100B2))
      (fun t => t.pc == 0x8004 && t.cpsr == 0x10 && hasBytes t 0x1000 [0x00, 0x00, 0xCC, 0xDD]) = true := by decide

theorem test_swp :
    ends (step ((machine 0x10 0x8000 [(1, 0x1001), (2, 0xAABBCCDD)] [(0x1000, [0x11, 0x22, 0x33, 0x44])]).withFetchWord
        32 0xE1010092))
      (fun t => t.x 0 == 0x11443322 && t.pc == 0x8004 && t.cpsr == 0x10 && hasBytes t 0x1000 [0xDD, 0xCC, 0xBB, 0xAA])
          = true := by decide

theorem test_swpb :
    ends (step ((machine 0x10 0x8000 [(1, 0x1002), (2, 0xAABBCCDD)] [(0x1000, [0x11, 0x22, 0x33, 0x44])]).withFetchWord
        32 0xE1410092))
      (fun t => t.x 0 == 0x33 && t.pc == 0x8004 && t.cpsr == 0x10 && hasBytes t 0x1000 [0x11, 0x22, 0xDD, 0x44]) = true
          := by decide

/-! ### Block transfers (part 11) -/

theorem test_ldm1 :
    ends (step ((machine 0x10 0x8000 [(0, 0x1000)]
        [(0xFF8, [0xF8, 0x0F, 0x00, 0x00, 0xFC, 0x0F, 0x00, 0x00, 0x00, 0x10, 0x00, 0x00])]).withFetchWord 32
        0xE810000E))
      (fun t => t.x 0 == 0x1000 && t.x 1 == 0xFF8 && t.x 2 == 0xFFC && t.x 3 == 0x1000 && t.pc == 0x8004 && t.cpsr ==
          0x10) = true := by decide

theorem test_ldm1_2 :
    ends (step ((machine 0x10 0x8000 [(0, 0x1000)]
        [(0xFF4, [0xF4, 0x0F, 0x00, 0x00, 0xF8, 0x0F, 0x00, 0x00, 0xFC, 0x0F, 0x00, 0x00])]).withFetchWord 32
        0xE930000E))
      (fun t => t.x 0 == 0xFF4 && t.x 1 == 0xFF4 && t.x 2 == 0xFF8 && t.x 3 == 0xFFC && t.pc == 0x8004 && t.cpsr ==
          0x10) = true := by decide

theorem test_stm1 :
    ends (step ((machine 0x10 0x8000 [(0, 0x1000), (1, 0xA1), (2, 0xA2), (3, 0xA3)]
        [(0xFF0, [0xF0, 0x0F, 0x00, 0x00, 0xF4, 0x0F, 0x00, 0x00, 0xF8, 0x0F, 0x00, 0x00, 0xFC, 0x0F, 0x00, 0x00, 0x00,
        0x10, 0x00, 0x00, 0x04, 0x10, 0x00, 0x00, 0x08, 0x10, 0x00, 0x00, 0x0C, 0x10, 0x00, 0x00, 0x10, 0x10, 0x00,
        0x00, 0x14, 0x10, 0x00, 0x00, 0x18, 0x10, 0x00, 0x00, 0x1C, 0x10, 0x00, 0x00])]).withFetchWord 32 0xE920000E))
      (fun t => t.x 0 == 0xFF4 && t.pc == 0x8004 && t.cpsr == 0x10 && hasBytes t 0xFF4
          [0xA1, 0x00, 0x00, 0x00, 0xA2, 0x00, 0x00, 0x00, 0xA3, 0x00, 0x00, 0x00]) = true := by decide

theorem test_stm1_2 :
    ends (step ((machine 0x10 0x8000 [(13, 0x1010), (4, 0x44), (14, 0x8123)]
        [(0xFF0, [0xF0, 0x0F, 0x00, 0x00, 0xF4, 0x0F, 0x00, 0x00, 0xF8, 0x0F, 0x00, 0x00, 0xFC, 0x0F, 0x00, 0x00, 0x00,
        0x10, 0x00, 0x00, 0x04, 0x10, 0x00, 0x00, 0x08, 0x10, 0x00, 0x00, 0x0C, 0x10, 0x00, 0x00, 0x10, 0x10, 0x00,
        0x00, 0x14, 0x10, 0x00, 0x00, 0x18, 0x10, 0x00, 0x00, 0x1C, 0x10, 0x00, 0x00])]).withFetchWord 32 0xE92D4010))
      (fun t => t.x 13 == 0x1008 && t.pc == 0x8004 && t.cpsr == 0x10 && hasBytes t 0x1008
          [0x44, 0x00, 0x00, 0x00, 0x23, 0x81, 0x00, 0x00]) = true := by decide

theorem test_stm1_3 :
    ends (step ((machine 0x10 0x8000 [(0, 0x1000), (1, 0xA1)]
        [(0xFF0, [0xF0, 0x0F, 0x00, 0x00, 0xF4, 0x0F, 0x00, 0x00, 0xF8, 0x0F, 0x00, 0x00, 0xFC, 0x0F, 0x00, 0x00, 0x00,
        0x10, 0x00, 0x00, 0x04, 0x10, 0x00, 0x00, 0x08, 0x10, 0x00, 0x00, 0x0C, 0x10, 0x00, 0x00, 0x10, 0x10, 0x00,
        0x00, 0x14, 0x10, 0x00, 0x00, 0x18, 0x10, 0x00, 0x00, 0x1C, 0x10, 0x00, 0x00])]).withFetchWord 32 0xE8808002))
      (fun t => t.x 0 == 0x1000 && t.pc == 0x8004 && t.cpsr == 0x10 && hasBytes t 0x1000
          [0xA1, 0x00, 0x00, 0x00, 0x0C, 0x80, 0x00, 0x00]) = true := by decide

theorem test_ldm1_3 :
    ends (step ((machine 0x10 0x8000 [(13, 0x1000)]
        [(0x1000, [0x44, 0x00, 0x00, 0x00, 0x01, 0x90, 0x00, 0x00])]).withFetchWord 32 0xE8BD8010))
      (fun t => t.x 4 == 0x44 && t.x 13 == 0x1008 && t.pc == 0x9000 && t.cpsr == 0x30) = true := by decide

theorem test_ldm3 :
    ends (step (((machine 0xD2 0x8000 [(13, 0x1000)]
        [(0x1000, [0x44, 0x00, 0x00, 0x00, 0x03, 0x90, 0x00, 0x00])]).setSpsr 0x60000030).withFetchWord 32 0xE8FD8001))
      (fun t => t.x 0 == 0x44 && t.pc == 0x9002 && t.cpsr == 0x60000030) = true := by decide

theorem test_ldm2 :
    ends (step ((((machine 0xD3 0x8000 [(0, 0x1000), (13, 0xAAAA), (14, 0xBBBB)]
        [(0x1000, [0x00, 0x10, 0x00, 0x00, 0x04, 0x10, 0x00, 0x00])]).setXsUsr [(13, 0), (14, 0)]).setSpsr
        0x10).withFetchWord 32 0xE8D06000))
      (fun t => t.x 0 == 0x1000 && t.x 13 == 0xAAAA && t.x 14 == 0xBBBB && t.xUsr 13 == 0x1000 && t.xUsr 14 == 0x1004
          && t.pc == 0x8004 && t.cpsr == 0xD3) = true := by decide

theorem test_stm2 :
    ends (step ((((machine 0xD3 0x8000 [(0, 0x1000), (13, 0xAAAA), (14, 0xBBBB)]
        [(0xFF0, [0xF0, 0x0F, 0x00, 0x00, 0xF4, 0x0F, 0x00, 0x00, 0xF8, 0x0F, 0x00, 0x00, 0xFC, 0x0F, 0x00, 0x00, 0x00,
        0x10, 0x00, 0x00, 0x04, 0x10, 0x00, 0x00, 0x08, 0x10, 0x00, 0x00, 0x0C, 0x10, 0x00, 0x00, 0x10, 0x10, 0x00,
        0x00, 0x14, 0x10, 0x00, 0x00, 0x18, 0x10, 0x00, 0x00, 0x1C, 0x10, 0x00, 0x00])]).setXsUsr
        [(13, 0x7000), (14, 0x7004)]).setSpsr 0x10).withFetchWord 32 0xE8C06000))
      (fun t => t.x 0 == 0x1000 && t.pc == 0x8004 && t.cpsr == 0xD3 && hasBytes t 0x1000
          [0x00, 0x70, 0x00, 0x00, 0x04, 0x70, 0x00, 0x00]) = true := by decide

/-! ### Branches (part 12) -/

theorem test_b :
    ends (step ((machine 0x10 0x8000 [] []).withFetchWord 32 0xEA7FFFFF))
      (fun t => t.pc == 0x2008004 && t.cpsr == 0x10) = true := by decide

theorem test_bl :
    ends (step ((machine 0x10 0x8000 [] []).withFetchWord 32 0xEB00003E))
      (fun t => t.pc == 0x8100 && t.cpsr == 0x10 && t.x 14 == 0x8004) = true := by decide

theorem test_blxImm :
    ends (step ((machine 0x10 0x8000 [] []).withFetchWord 32 0xFB000000))
      (fun t => t.pc == 0x800A && t.cpsr == 0x30 && t.x 14 == 0x8004) = true := by decide

theorem test_bx :
    ends (step ((machine 0x10 0x8000 [(0, 0x9001)] []).withFetchWord 32 0xE12FFF10))
      (fun t => t.pc == 0x9000 && t.cpsr == 0x30) = true := by decide

theorem test_blxReg :
    ends (step ((machine 0x10 0x8000 [(14, 0x9000)] []).withFetchWord 32 0xE12FFF3E))
      (fun t => t.pc == 0x9000 && t.cpsr == 0x10 && t.x 14 == 0x8004) = true := by decide

/-! ### Thumb (part 14) -/

theorem test_tAsr1 :
    ends (step ((machine 0x30 0x8002 [(1, 0x80000001)] []).withFetchWord 16 0x1048))
      (fun t => t.x 0 == 0xC0000000 && t.pc == 0x8004 && t.cpsr == 0xA0000030) = true := by decide

theorem test_tSub3 :
    ends (step ((machine 0x20000030 0x8002 [(1, 0), (2, 1)] []).withFetchWord 16 0x1A88))
      (fun t => t.x 0 == 0xFFFFFFFF && t.pc == 0x8004 && t.cpsr == 0x80000030) = true := by decide

theorem test_tAdd1 :
    ends (step ((machine 0x30 0x8002 [(1, 0xFFFFFFF9)] []).withFetchWord 16 0x1DC8))
      (fun t => t.x 0 == 0 && t.pc == 0x8004 && t.cpsr == 0x60000030) = true := by decide

theorem test_tSub2 :
    ends (step ((machine 0x30 0x8002 [(0, 0x80000000)] []).withFetchWord 16 0x3801))
      (fun t => t.x 0 == 0x7FFFFFFF && t.pc == 0x8004 && t.cpsr == 0x30000030) = true := by decide

theorem test_tAnd :
    ends (step ((machine 0x30000030 0x8002 [(0, 0xF0), (1, 0xF)] []).withFetchWord 16 0x4008))
      (fun t => t.x 0 == 0 && t.pc == 0x8004 && t.cpsr == 0x70000030) = true := by decide

theorem test_tLsl2 :
    ends (step ((machine 0x30 0x8002 [(0, 1), (1, 0x20)] []).withFetchWord 16 0x4088))
      (fun t => t.x 0 == 0 && t.pc == 0x8004 && t.cpsr == 0x60000030) = true := by decide

theorem test_tRor :
    ends (step ((machine 0x30 0x8002 [(0, 0x80000001), (1, 4)] []).withFetchWord 16 0x41C8))
      (fun t => t.x 0 == 0x18000000 && t.pc == 0x8004 && t.cpsr == 0x30) = true := by decide

theorem test_tSbc :
    ends (step ((machine 0x30 0x8002 [(0, 5), (1, 5)] []).withFetchWord 16 0x4188))
      (fun t => t.x 0 == 0xFFFFFFFF && t.pc == 0x8004 && t.cpsr == 0x80000030) = true := by decide

theorem test_tNeg :
    ends (step ((machine 0x30 0x8002 [(1, 0x80000000)] []).withFetchWord 16 0x4248))
      (fun t => t.x 0 == 0x80000000 && t.pc == 0x8004 && t.cpsr == 0x90000030) = true := by decide

theorem test_tCmp2 :
    ends (step ((machine 0x30 0x8002 [(0, 0x80000000), (1, 1)] []).withFetchWord 16 0x4288))
      (fun t => t.pc == 0x8004 && t.cpsr == 0x30000030) = true := by decide

theorem test_tMul :
    ends (step ((machine 0x30000030 0x8002 [(0, 0x10000), (1, 0x10000)] []).withFetchWord 16 0x4348))
      (fun t => t.x 0 == 0 && t.pc == 0x8004 && t.cpsr == 0x70000030) = true := by decide

theorem test_tMvn :
    ends (step ((machine 0x30 0x8002 [(1, 0)] []).withFetchWord 16 0x43C8))
      (fun t => t.x 0 == 0xFFFFFFFF && t.pc == 0x8004 && t.cpsr == 0x80000030) = true := by decide

theorem test_tAdd4 :
    ends (step ((machine 0x30 0x8002 [(0, 1), (9, 0xFFFFFFFF)] []).withFetchWord 16 0x4448))
      (fun t => t.x 0 == 0 && t.pc == 0x8004 && t.cpsr == 0x30) = true := by decide

theorem test_tMov3 :
    ends (step ((machine 0xF0000030 0x8002 [(8, 0x12345678)] []).withFetchWord 16 0x4640))
      (fun t => t.x 0 == 0x12345678 && t.pc == 0x8004 && t.cpsr == 0xF0000030) = true := by decide

theorem test_tCmp3 :
    ends (step ((machine 0x30 0x8002 [(8, 1), (1, 2)] []).withFetchWord 16 0x4588))
      (fun t => t.pc == 0x8004 && t.cpsr == 0x80000030) = true := by decide

theorem test_tLdr3 :
    ends (step ((machine 0x30 0x8002 [] [(0x8008, [0x0D, 0xF0, 0xFE, 0xCA])]).withFetchWord 16 0x4801))
      (fun t => t.x 0 == 0xCAFEF00D && t.pc == 0x8004 && t.cpsr == 0x30) = true := by decide

theorem test_tAdd5 :
    ends (step ((machine 0x30 0x8002 [] []).withFetchWord 16 0xA002))
      (fun t => t.x 0 == 0x800C && t.pc == 0x8004 && t.cpsr == 0x30) = true := by decide

theorem test_tSub4 :
    ends (step ((machine 0x30 0x8002 [(13, 0x1000)] []).withFetchWord 16 0xB0FF))
      (fun t => t.x 13 == 0xE04 && t.pc == 0x8004 && t.cpsr == 0x30) = true := by decide

theorem test_tStr2 :
    ends (step ((machine 0x30 0x8002 [(0, 0xAABBCCDD), (1, 0x1000), (2, 4)] []).withFetchWord 16 0x5088))
      (fun t => t.pc == 0x8004 && t.cpsr == 0x30 && hasBytes t 0x1004 [0xDD, 0xCC, 0xBB, 0xAA]) = true := by decide

theorem test_tStrh1 :
    ends (step ((machine 0x30 0x8002 [(0, 0xAABBCCDD), (1, 0x1000)] []).withFetchWord 16 0x8048))
      (fun t => t.pc == 0x8004 && t.cpsr == 0x30 && hasBytes t 0x1002 [0xDD, 0xCC]) = true := by decide

theorem test_tStrb1 :
    ends (step ((machine 0x30 0x8002 [(0, 0xAABBCCDD), (1, 0x1000)] []).withFetchWord 16 0x77C8))
      (fun t => t.pc == 0x8004 && t.cpsr == 0x30 && hasBytes t 0x101F [0xDD]) = true := by decide

theorem test_tLdrh1 :
    ends (step ((machine 0x30 0x8002 [(1, 0x1000)] [(0x103E, [0x01, 0x80, 0x00, 0x00])]).withFetchWord 16 0x8FC8))
      (fun t => t.x 0 == 0x8001 && t.pc == 0x8004 && t.cpsr == 0x30) = true := by decide

theorem test_tLdrsh :
    ends (step ((machine 0x30 0x8002 [(1, 0x1000), (2, 2)] [(0x1002, [0x01, 0x80, 0x00, 0x00])]).withFetchWord 16
        0x5E88))
      (fun t => t.x 0 == 0xFFFF8001 && t.pc == 0x8004 && t.cpsr == 0x30) = true := by decide

theorem test_tLdrsb :
    ends (step ((machine 0x30 0x8002 [(1, 0x1000), (2, 3)] [(0x1003, [0x80, 0x00, 0x00, 0x00])]).withFetchWord 16
        0x5688))
      (fun t => t.x 0 == 0xFFFFFF80 && t.pc == 0x8004 && t.cpsr == 0x30) = true := by decide

theorem test_tLdr4 :
    ends (step ((machine 0x30 0x8002 [(13, 0x1000)] [(0x13FC, [0x77, 0x00, 0x00, 0x00])]).withFetchWord 16 0x98FF))
      (fun t => t.x 0 == 0x77 && t.pc == 0x8004 && t.cpsr == 0x30) = true := by decide

theorem test_tPush :
    ends (step ((machine 0x30 0x8002 [(0, 0xA0), (1, 0xA1), (14, 0x8125), (13, 0x1010)] []).withFetchWord 16 0xB503))
      (fun t => t.x 13 == 0x1004 && t.pc == 0x8004 && t.cpsr == 0x30 && hasBytes t 0x1004
          [0xA0, 0x00, 0x00, 0x00, 0xA1, 0x00, 0x00, 0x00, 0x25, 0x81, 0x00, 0x00]) = true := by decide

theorem test_tPop :
    ends (step ((machine 0x30 0x8002 [(13, 0x1004)]
        [(0x1004, [0xA0, 0x00, 0x00, 0x00, 0x25, 0x81, 0x00, 0x00])]).withFetchWord 16 0xBD01))
      (fun t => t.x 0 == 0xA0 && t.x 13 == 0x100C && t.pc == 0x8124 && t.cpsr == 0x30) = true := by decide

theorem test_tLdmia :
    ends (step ((machine 0x30 0x8002 [(0, 0x1000)]
        [(0x1000, [0xA1, 0x00, 0x00, 0x00, 0xA2, 0x00, 0x00, 0x00])]).withFetchWord 16 0xC806))
      (fun t => t.x 0 == 0x1008 && t.x 1 == 0xA1 && t.x 2 == 0xA2 && t.pc == 0x8004 && t.cpsr == 0x30) = true := by
          decide

theorem test_tBx :
    ends (step ((machine 0x30 0x8002 [(1, 0x9000)] []).withFetchWord 16 0x4708))
      (fun t => t.pc == 0x9000 && t.cpsr == 0x10) = true := by decide

theorem test_tBlx2 :
    ends (step ((machine 0x30 0x8002 [(1, 0x9000)] []).withFetchWord 16 0x4788))
      (fun t => t.x 14 == 0x8005 && t.pc == 0x9000 && t.cpsr == 0x10) = true := by decide

theorem test_tB1 :
    ends (step ((machine 0x40000030 0x8002 [] []).withFetchWord 16 0xD002))
      (fun t => t.pc == 0x800A && t.cpsr == 0x40000030) = true := by decide

theorem test_tB2 :
    ends (step ((machine 0x30 0x8002 [] []).withFetchWord 16 0xE400))
      (fun t => t.pc == 0x7806 && t.cpsr == 0x30) = true := by decide

theorem test_tBlPrefix :
    ends (step ((machine 0x30 0x8002 [] []).withFetchWord 16 0xF000))
      (fun t => t.x 14 == 0x8006 && t.pc == 0x8004 && t.cpsr == 0x30) = true := by decide

theorem test_tBlSuffix :
    ends (step ((machine 0x30 0x8004 [(14, 0x8006)] []).withFetchWord 16 0xF87E))
      (fun t => t.x 14 == 0x8007 && t.pc == 0x8102 && t.cpsr == 0x30) = true := by decide

theorem test_tBlx1Suffix :
    ends (step ((machine 0x30 0x8004 [(14, 0x8006)] []).withFetchWord 16 0xE87E))
      (fun t => t.x 14 == 0x8007 && t.pc == 0x8100 && t.cpsr == 0x10) = true := by decide

/-- A call backwards from the first bytes of memory: its prefix passes address 0 and its suffix comes back
    (R525, R526); with a
smaller second half the whole target lies before address 0 and is refused, and so is one past the top (R29, U9). -/
theorem test_thumb_call_at_the_ends_of_memory :
    ends (step ((machine 0x30 0x100 [] []).withFetchWord 16 0xF7FF)) (fun t => t.x 14 == 0xFFFFF104) = true ∧
    ends (step ((machine 0x30 0x102 [(14, 0xFFFFF104)] []).withFetchWord 16 0xFFBE)) (fun t => t.pc == 0x80) = true ∧
    refuses (step ((machine 0x30 0x102 [(14, 0xFFFFF104)] []).withFetchWord 16 0xF800)) .addressWrap = true ∧
    refuses (step ((machine 0x30 0xFFFFFF02 [(14, 0x00000F04)] []).withFetchWord 16 0xF800)) .addressWrap = true ∧
    refuses (step ((machine 0x30 0x8000 [(14, 0xFFFFFFFC)] []).withFetchWord 16 0xE802)) .addressWrap = true := by
        decide

/-! ### Exceptions (part 13) and situations without a meaning (part 15) -/

theorem test_swi :
    ends (step ((machine 0x10 0x8000 [] []).withFetchWord 32 0xEF000042))
      (fun t => t.cpsr == 0x93 && t.pc == 8 && t.x 14 == 0x8004 && t.spsr? == some 0x10) = true := by decide

theorem test_tSwi :
    ends (step ((machine 0x30 0x8002 [] []).withFetchWord 16 0xDF42))
      (fun t => t.cpsr == 0x93 && t.pc == 8 && t.x 14 == 0x8004 && t.spsr? == some 0x30) = true := by decide

theorem test_bkpt :
    ends (step ((machine 0x10 0x8000 [] []).withFetchWord 32 0xE1200070))
      (fun t => t.cpsr == 0x97 && t.pc == 0xC && t.x 14 == 0x8004 && t.spsr? == some 0x10) = true := by decide

theorem test_undefMedia :
    ends (step ((machine 0x10 0x8000 [] []).withFetchWord 32 0xE7F000F0))
      (fun t => t.cpsr == 0x9B && t.pc == 4 && t.x 14 == 0x8004 && t.spsr? == some 0x10) = true := by decide

theorem test_tUndefBlx :
    ends (step ((machine 0x30 0x8002 [] []).withFetchWord 16 0xE801))
      (fun t => t.cpsr == 0x9B && t.pc == 4 && t.x 14 == 0x8004) = true := by decide

theorem test_cdp_rejected :
    ends (step ((machine 0x10 0x8000 [] []).withFetchWord 32 0xEE1327A4))
      (fun t => t.cpsr == 0x9B && t.pc == 4 && t.x 14 == 0x8004 && t.spsr? == some 0x10) = true := by decide

theorem test_prefetch_abort :
    ends (step (aborting .fetch 4 0x8000 0x8003 (machine 0x10 0x8000 [] [])))
      (fun t => t.cpsr == 0x97 && t.pc == 0xC && t.x 14 == 0x8004 && t.spsr? == some 0x10) = true := by decide

theorem test_data_abort :
    ends (step ((aborting .read 4 0x1000 0x1003 (machine 0x10 0x8000 [(1, 0x1000)] [])).withFetchWord 32 0xE5910000))
      (fun t => t.cpsr == 0x97 && t.pc == 0x10 && t.x 14 == 0x8008 && t.spsr? == some 0x10) = true := by decide

theorem test_irq_in_thumb_state :
    ends (step { machine 0x30 0x8002 [] [] with lines := { Lines.quiet with irq := true } })
      (fun t => t.cpsr == 0x92 && t.pc == 0x18 && t.x 14 == 0x8006 && t.spsr? == some 0x30) = true := by decide

theorem test_fiq_before_irq :
    ends (step { machine 0x10 0x8004 [] [] with lines := ⟨false, true, true⟩ })
      (fun t => t.cpsr == 0xD1 && t.pc == 0x1C && t.x 14 == 0x8008 && t.spsr? == some 0x10) = true := by decide

/-- STR (1) at 0x9001: bytes outside 0x9000 to 0x9004 stay (log entry 11). -/
theorem test_misaligned_thumb_store_runs :
    ends (step ((machine 0x30 0x8000 [(1, 0x9001)] [(0x8FFF, [0xAB]), (0x9005, [0xCD])]).withFetchWord 16 0x6008))
      (fun t => t.pc == 0x8002 && t.byte 0x8FFF == some 0xAB && t.byte 0x9005 == some 0xCD && t.freeCount == 2 &&
        t.stored == [0x9000, 0x9001, 0x9002, 0x9003, 0x9004]) = true := by decide

/-- MOVEQ PC, #2: part 15 of spec/95_test_vectors.md has the misaligned result dynamic, so a failed condition advances. -/
theorem test_misaligned_result_is_dynamic :
    ends (step ((machine 0x10 0x8000 [] []).withFetchWord 32 0x03A0F002)) (fun t => t.pc == 0x8004) = true ∧
    refuses (step ((machine 0x40000010 0x8000 [] []).withFetchWord 32 0x03A0F002)) .unpredictableTarget = true := by decide

theorem test_situations_refused :
    refuses (step ((machine 0x10 0x8000 [(0, 0x9002)] []).withFetchWord 32 0xE12FFF10)) .unpredictableTarget = true ∧
    refuses (step ((machine 0x10 0x8000 [] []).withFetchWord 32 0xE3A0F002)) .unpredictableTarget = true ∧
    refuses (step ((machine 0x1F 0x8000 [] []).withFetchWord 32 0xE1B0F00E)) .noSpsr = true ∧
    refuses (step ((machine 0x10 0x8000 [] []).withFetchWord 32 0xE14F0000)) .noSpsr = true ∧
    refuses (step ((machine 0x13 0x8000 [] []).withFetchWord 32 0xE321F030)) .msrSetsT = true ∧
    refuses (step ((machine 0x13 0x8000 [] []).withFetchWord 32 0xE321F000)) .illegalMode = true ∧
    refuses (step ((machine 0x10 0x8000 [(1, 0x1001)] []).withFetchWord 32 0xE1D100B0)) .unpredictableAlignment = true ∧
    refuses (step ((machine 0x10 0x8000 [(1, 0x1004)] []).withFetchWord 32 0xE1C120D0)) .unpredictableAlignment = true ∧
    refuses (step ((machine 0x10 0x8000 [] []).withFetchWord 32 0xEA800000)) .addressWrap = true := by decide

theorem test_skipped_add :
    ends (step ((machine 0x10 0x8000 [(0, 5)] []).withFetchWord 32 0x02800001))
      (fun t => t.x 0 == 5 && t.cpsr == 0x10 && t.pc == 0x8004) = true := by decide

/-! ### Coprocessors, hints and User-privilege transfers: from R440 to R447, R200, R379 -/

/-- A machine with a coprocessor 7 that accepts these operations, with two words for a transfer. -/
def withCp (ops : List CpOp) (s : State) : State := { s with coprocs := ops.map fun op => ⟨7, op, .takes 1⟩ }

theorem test_cdp_accepted :
    ends (step ((withCp [.cdp 1 5 2 3 4 false] (machine 0x10 0x8000 [] [])).withFetchWord 32 0xEE1327A4))
      (fun t => t.cpPast == [.took 7 (.cdp 1 5 2 3 4 false) []] && t.pc == 0x8004) = true := by decide

theorem test_mcr :
    ends (exec (.mcr .al 0 2 1 7 4 3) (withCp [.mcr 0 4 2 3 false false] (machine 0x10 0x8000 [(1, 0xAB)] [])))
      (fun t => t.cpPast == [.took 7 (.mcr 0 4 2 3 false false) [0xAB]] && t.pc == 0x8004) = true := by decide

theorem test_mcrr :
    ends (exec (.mcrr .al 2 1 7 3 4) (withCp [.mcrr 3 4] (machine 0x10 0x8000 [(1, 0xAB), (2, 0xCD)] [])))
      (fun t => t.cpPast == [.took 7 (.mcrr 3 4) [0xAB, 0xCD]] && t.pc == 0x8004) = true := by decide

theorem test_ldc :
    ends (exec (.ldc .al true true false true 1 2 7 1) (withCp [.ldc 2 false false none]
        (machine 0x10 0x8000 [(1, 0x1000)] [(0x1004, [1, 0, 0, 0, 2, 0, 0, 0])])))
      (fun t => t.cpPast == [.took 7 (.ldc 2 false false none) [1, 2]] && t.x 1 == 0x1004 && t.pc == 0x8004) = true :=
          by
          decide

theorem test_pldImm :
    ends (step ((machine 0x10 0x8000 [] []).withFetchWord 32 0xF5D1F004)) (fun t => t.pc == 0x8004) = true := by decide

theorem test_ldrtImm_has_user_rights :
    ends (step ({ machine 0x13 0x8000 [(1, 0x1000)] [(0x1000, [1, 2, 3, 4])] with
        settings := { Settings.default with memAbort := [⟨0x1000, 0x1003, none, .read, true⟩] } }.withFetchWord 32
            0xE4B10004))
      (fun t => t.x 0 == 0x04030201 && t.x 1 == 0x1004 && t.pc == 0x8004) = true := by decide

/-! ## Witnesses: for each obligation with hypotheses, states and operands that meet them, a conjunct for each clause -/

/-- A run of the machine has a next state if it ends well. -/
theorem next_of_ends {r : Result} {p : State → Bool} (h : ends r p = true) : ∃ t, r = .next t := by
  cases r with
  | next t => exact ⟨t, rfl⟩
  | fault f => cases h
  | refused f => cases h

theorem armReady_of {s : State} (h : s.thumb = false ∧ s.pc.toNat + s.width < 2 ^ 32) : s.armReady := h

theorem thumbReady_of {s : State} (h : s.thumb = true ∧ s.pc.toNat + s.width < 2 ^ 32) : s.thumbReady := h

theorem readyFor_of {s : State} {i : Instr} (h : s.thumb = isThumb i ∧ s.pc.toNat + s.width < 2 ^ 32) : s.readyFor i :=
    h

theorem holds_of {s : State} {a : Word} {n v : Nat}
    (h : v < 256 ^ n ∧ ∀ k, k < n → s.byte (a + BitVec.ofNat 32 k) =
      some (BitVec.ofNat 8 (v / 256 ^ (if s.settings.bigend then n - 1 - k else k)))) : s.holds a n v := h

theorem holdsWords_of {s : State} {a : Word} {vs : List Word}
    (h : ∀ k, k < vs.length → (vs.getD k 0).toNat < 256 ^ 4 ∧ ∀ j, j < 4 →
      s.byte (alignWord a + BitVec.ofNat 32 (4 * k) + BitVec.ofNat 32 j) =
        some (BitVec.ofNat 8 ((vs.getD k 0).toNat / 256 ^ (if s.settings.bigend then 4 - 1 - j else j)))) :
    s.holdsWords a vs := by
  intro k v hk
  obtain ⟨hl, rfl⟩ := List.getElem?_eq_some_iff.mp hk
  have := h k hl
  rw [List.getD_eq_getElem _ _ hl] at this
  exact this

theorem admits_of {s : State} {kind : AccessKind} {a : Word} {n : Nat}
    (h : ∀ k, k < n → s.settings.aborts kind s.privileged 4 (alignWord (a + BitVec.ofNat 32 (4 * k))) = false) :
    s.admits kind a n := h

theorem blockOk_of {s : State} {a : Word} {n : Nat}
    (h : (alignWord a).toNat + 4 * n ≤ 2 ^ 32 ∧ (lowTwo a = 0 ∨ s.settings.alignFault = false)) : s.blockOk a n := h

theorem sequenceFits_of {m : Address} {unit n : Nat}
    (h : (alignWord m.start).toNat + 4 * n ≤ 2 ^ 32 ∧ (unit = 8 → m.start.toNat + 8 ≤ 2 ^ 32)) : sequenceFits m unit n
        := h

theorem aligned_of {s : State} {m : Address} {unit : Nat}
    (h : m.start.toNat % unit = 0 ∨ (unit = 4 ∧ s.settings.alignFault = false)) : s.aligned m unit := h

/-- The registers and the memory of the witnesses: the last sixteen bytes of the address space among it. -/
def filled (cpsr pc : Word) : State :=
  machine cpsr pc
    [(0, 0x1000), (1, 0xFFFFFFFF), (2, 0x80000001), (3, 0xFFFFFFFC), (4, 0xFFFFFFF8), (5, 0x1002), (6, 0xFFFFFFFE),
      (7, 1), (13, 0xFFFFFFF0)]
    [(0x1000, [0x10, 0x32, 0x54, 0x76, 0x02, 0x90, 0x00, 0x00]),
      (0xFFFFFFF0, [0x44, 0x00, 0x00, 0x00, 0x01, 0x90, 0x00, 0x00, 0x33, 0x22, 0x11, 0x00, 0xAA, 0xBB, 0xCC, 0xDD])]

/-- User mode in ARM state, at the last address after which another instruction follows. -/
def user : State := filled 0x00000010 0xFFFFFFF8

/-- Supervisor mode in ARM state, at that address, with a saved status of User mode in Thumb state. -/
def svc : State := (filled 0x000000D3 0xFFFFFFF8).setSpsr 0x60000030

/-- User mode in Thumb state, at the last address after which another instruction follows. -/
def thumb : State := filled 0x00000030 0xFFFFFFFC

theorem witness_DecodingUndoesEncoding : (Instr.undefUncond 0x7FFFFFF).wf = true ∧ (Instr.tB1 .le 0xFF).wf = true := by
  decide

theorem witness_UnpredictableWordsAreRefused : (Instr.mul .eq true 1 0 2 1).wf = false := by decide

theorem witness_FailedConditionOnlyAdvances :
    (Cond.ofBits? ((0x02800001 : Word).extractLsb' 28 4) = some .eq ∧ Cond.holds .eq user.cpsr = false ∧
      (decodeArm 0x02800001).wf = true ∧ user.armReady) ∧
    Cond.eq ≠ .al ∧ Cond.holds .eq thumb.cpsr = false ∧ thumb.thumbReady :=
  ⟨⟨by decide, by decide, by decide, armReady_of (by decide)⟩, by decide, by decide, thumbReady_of (by decide)⟩

theorem witness_EveryStepKeepsStatesWellFormed :
    (user.withFetchWord 32 0xE3A00005).wf = true ∧ ∃ t, step (user.withFetchWord 32 0xE3A00005) = .next t :=
  ⟨by decide, next_of_ends (p := fun t => t.x 0 == 5) (by decide)⟩

theorem witness_NoStepChangesTheParameters :
    ∃ t, step ({ user with schedule := [⟨true, false, true⟩] }.withFetchWord 32 0xE3A00005) = .next t :=
  next_of_ends (p := fun t => t.lines.reset) (by decide)

theorem witness_StepRunsTheDecodedInstruction :
    (let s := machine 0x10 0xFFFFFFFC [] [(0xFFFFFFFC, [0x05, 0x00, 0xA0, 0xE3])];
      s.lines.reset = false ∧ (s.lines.fiq = false ∨ Psr.f s.cpsr = true) ∧ (s.lines.irq = false ∨ Psr.i s.cpsr = true)
          ∧
      s.thumb = false ∧ s.pcAligned = true ∧ s.holds s.pc 4 (0xE3A00005 : Word).toNat ∧
      s.settings.aborts .fetch s.privileged 4 s.pc = false ∧ ∀ a, bytesAt s.pc 4 a → a.toNat ∉ s.stored) ∧
    (let s := { machine 0xF3 0xFFFFFFFE [] [(0xFFFFFFFE, [0x05, 0x20])] with lines := ⟨false, true, true⟩ };
      s.lines.reset = false ∧ (s.lines.fiq = false ∨ Psr.f s.cpsr = true) ∧ (s.lines.irq = false ∨ Psr.i s.cpsr = true)
          ∧
      s.thumb = true ∧ s.pcAligned = true ∧ s.holds s.pc 2 (0x2005 : Half).toNat ∧
      s.settings.aborts .fetch s.privileged 2 s.pc = false ∧ ∀ a, bytesAt s.pc 2 a → a.toNat ∉ s.stored) :=
  ⟨⟨by decide, by decide, by decide, by decide, by decide, holds_of (by decide), by decide, fun _ _ =>
      List.not_mem_nil⟩,
    by decide, by decide, by decide, by decide, by decide, holds_of (by decide), by decide, fun _ _ => List.not_mem_nil⟩

theorem witness_StoredBytesAreNotExecuted :
    (∃ t, step (user.withFetchWord 32 0xE4C10001) = .next t) ∧
    (let s := { machine 0x10 0xFFFFFFFC [] [] with stored := [0xFFFFFFFF] };
      s.pending = none ∧ s.pcAligned = true ∧ s.settings.aborts .fetch s.privileged s.width s.pc = false ∧
      ∃ a, bytesAt s.pc s.width a ∧ a.toNat ∈ s.stored) :=
  ⟨next_of_ends (p := fun t => t.stored == [0xFFFFFFFF]) (by decide), by decide, by decide, by decide, 0xFFFFFFFF,
    ⟨3, by decide, by decide⟩, by decide⟩

theorem witness_UserModeIsLeftByExceptionsOnly :
    Psr.m (user.withFetchWord 32 0xE3A00005).cpsr = 0b10000 ∧ (∃ t, step (user.withFetchWord 32 0xE3A00005) = .next t) ∧
    Psr.m (user.withFetchWord 32 0xEF000000).cpsr = 0b10000 ∧ ∃ t, step (user.withFetchWord 32 0xEF000000) = .next t :=
  ⟨by decide, next_of_ends (p := fun t => Psr.m t.cpsr == 0b10000) (by decide), by decide,
    next_of_ends (p := fun t => Psr.m t.cpsr == 0b10011) (by decide)⟩

theorem witness_ExceptionEntrySavesAndSwitches : Exception.undefined ≠ .reset ∧ Exception.fiq ≠ .reset := by decide

theorem witness_ResetEntrySetsModeAndMasks : ({ user with lines := ⟨true, true, true⟩ } : State).lines.reset = true :=
    by decide

theorem witness_BoundaryEventsTakeTheirExceptions :
    (let s := { user with lines := ⟨false, true, true⟩ };
      s.lines.reset = false ∧ s.lines.fiq = true ∧ Psr.f s.cpsr = false) ∧
    (let s := { filled 0x50 0xFFFFFFFC with lines := ⟨false, true, true⟩ };
      s.lines.reset = false ∧ (s.lines.fiq = false ∨ Psr.f s.cpsr = true) ∧ s.lines.irq = true ∧ Psr.i s.cpsr = false) ∧
    (let s := aborting .fetch 4 0xFFFFFFFC 0xFFFFFFFC (filled 0x10 0xFFFFFFFC);
      s.pending = none ∧ s.pcAligned = true ∧ s.settings.aborts .fetch s.privileged s.width s.pc = true) := by decide

theorem witness_InstructionsRaiseTheirExceptions :
    (Raises (.swi .al 0xFFFFFF) .al .softwareInterrupt ∧ (Instr.swi .al 0xFFFFFF).wf = true) ∧
    (Raises (.bkpt .al 0 0) .al .prefetchAbort ∧ (Instr.bkpt .al 0 0).wf = true) ∧
    (Raises (.undefArith .al 0b10001 0 0) .al .undefined ∧ (Instr.undefArith .al 0b10001 0 0).wf = true) ∧
    (Raises (.undefCompare .al 0b11 0x70) .al .undefined ∧ (Instr.undefCompare .al 0b11 0x70).wf = true) ∧
    (Raises (.undefUncond 0x1A00000) .al .undefined ∧ (Instr.undefUncond 0x1A00000).wf = true) ∧
    (Raises (.tUndefMisc 0b1111 0) .al .undefined ∧ (Instr.tUndefMisc 0b1111 0).wf = true) ∧
    Cond.holds .al user.cpsr = true :=
  ⟨⟨.swi _ _, by decide⟩, ⟨.bkpt _ _ _, by decide⟩, ⟨.undefArith _ _ _ _, by decide⟩, ⟨.undefCompare _ _ _, by decide⟩,
    ⟨.undefUncond _, by decide⟩, ⟨.tUndefMisc _ _, by decide⟩, by decide⟩

theorem witness_ReturnUndoesExceptionEntry :
    svc.wf = true ∧ Exception.undefined ≠ .reset ∧ thumb.wf = true ∧ Exception.dataAbort ≠ .reset := by decide

theorem witness_RegisterBanksAsTabled : (14 : Reg) ≠ 15 ∧ (0 : Reg) ≠ 14 := by decide

theorem witness_MixedWidthAccessesAgree :
    lowTwo 0xFFFFFFFC = 0 ∧ (∃ t, user.writeWord true 0xFFFFFFFC 0x11223344 = some t) ∧
    ∃ t, (bigEndian user).writeWord false 0xFFFFFFFC 0x11223344 = some t := ⟨by decide, ⟨_, rfl⟩, ⟨_, rfl⟩⟩

theorem witness_RegisterShiftsCompute : (0 : BitVec 8).toNat = 0 ∧ (32 : BitVec 8).toNat ≠ 0 ∧ (255 : BitVec 8).toNat ≠
    0 := by
  decide

theorem witness_DataProcessingWritesResultAndFlags :
    (DpOp.instr .al true 1 14 .rsc (.regShift 2 .ror 3)).wf = true ∧ (DpOp.instr .al true 15 0 .mov (.imm 15 255)).wf =
        false ∧
    (DpOp.instr .al true 0 0 .mov (.imm 15 255)).wf = true ∧ (DpOp.instr .al false 15 0 .and (.immShift 0 .ror 15)).wf
        = true ∧
    Cond.holds .al user.cpsr = true ∧ (14 : Reg) ≠ 15 ∧ user.armReady :=
  ⟨by decide, by decide, by decide, by decide, by decide, by decide, armReady_of (by decide)⟩

theorem witness_ComparesSetFlagsAlone :
    compareInstr .al 1 .sub (.imm 0 5) = some (.cmpImm .al 1 0 0 5) ∧ (Instr.cmpImm .al 1 0 0 5).wf = true ∧
    Cond.holds .al user.cpsr = true ∧ user.armReady := ⟨by decide, by decide, by decide, armReady_of (by decide)⟩

theorem witness_DataProcessingBranchesThroughThePc :
    (DpOp.instr .al false 0 15 .mov (.immShift 0 .lsl 14)).wf = true ∧ Cond.holds .al user.cpsr = true := by decide

theorem witness_DataProcessingReturnsFromExceptions :
    (DpOp.instr .al true 14 15 .sub (.imm 0 4)).wf = true ∧ Cond.holds .al svc.cpsr = true ∧
    (svc.spsr? = some 0x60000030 ∧ (Mode.ofBits? (Psr.m 0x60000030)).isSome = true) ∧
    ((svc.setSpsr 0x14).spsr? = some 0x14 ∧ (Mode.ofBits? (Psr.m 0x14)).isSome = false) ∧ user.spsr? = none := by decide

theorem witness_ClzCountsLeadingZeros :
    (Instr.clz .al 15 14 15 0).wf = true ∧ Cond.holds .al user.cpsr = true ∧ user.armReady :=
  ⟨by decide, by decide, armReady_of (by decide)⟩

theorem witness_PreloadOnlyAdvances : user.armReady ∧ (14 : Reg) ≠ 15 := ⟨armReady_of (by decide), by decide⟩

/-- The target of an ARM branch as an integer. -/
def armTarget (s : State) (offset24 : BitVec 24) : Int := s.pc.toNat + 8 + 4 * offset24.toInt

theorem witness_ArmBranchesReachTheirTargets :
    Cond.holds .al user.cpsr = true ∧ user.thumb = false ∧ armTarget user 0xFFFFFF = 2 ^ 32 - 4 ∧
    armTarget user 0xFFFFFF + 2 * bit true = 2 ^ 32 - 2 ∧ armTarget user 0 = 2 ^ 32 ∧ armTarget user 0 + 2 * bit false
        = 2 ^ 32 ∧
    armTarget (filled 0x10 0) 0xFFFFFE = 0 ∧ armTarget (filled 0x10 0) 0xFFFFFD = -4 ∧
    armTarget (filled 0x10 0) 0xFFFFFD + 2 * bit true = -2 := by decide

theorem witness_BranchExchangeSwitchesInstructionSet :
    (user.thumb = false ∧ Cond.holds .al user.cpsr = true ∧ (user.x 1).extractLsb' 0 2 ≠ 0b10 ∧ (1 : Reg) ≠ 15) ∧
    (thumb.thumb = true ∧ (thumb.x (highReg true 7)).extractLsb' 0 2 ≠ 0b10) ∧
    (thumb.thumb = true ∧ (thumb.x (highReg true 5)).extractLsb' 0 2 ≠ 0b10 ∧ highReg true 5 ≠ 15) ∧
    ((user.x 6).extractLsb' 0 2 = 0b10 ∧ (6 : Reg) ≠ 15) ∧
    ((thumb.x (highReg false 6)).extractLsb' 0 2 = 0b10 ∧ highReg false 6 ≠ 15) := by decide

theorem witness_ThumbBranchesReachTheirTargets : Cond.le ≠ .al ∧ thumb.thumb = true ∧ Cond.holds .ne thumb.cpsr = true
    := by
  decide

theorem witness_ThumbCallHalvesLinkAndBranch :
    (thumb.thumb = true ∧ thumb.hasRoom) ∧
    (let s := machine 0x30 0x102 [(14, 0xFFFFF104)] [];
      s.thumb = true ∧ s.x 14 = s.pc + 2 + BitVec.ofInt 32 ((-1 : BitVec 11).toInt * 2 ^ 12) ∧
      (0 : Int) ≤ s.pc.toNat + 2 + (-1 : BitVec 11).toInt * 2 ^ 12 + 2 * (0x7BE : BitVec 11).toNat ∧
      ¬(0 : Int) ≤ s.pc.toNat + 2 + (-1 : BitVec 11).toInt * 2 ^ 12 + 2 * (0 : BitVec 11).toNat) ∧
    (let s := machine 0x30 0x102 [(14, 0x20000001)] [];
      s.thumb = true ∧ ∀ before : BitVec 11, ¬s.x 14 = s.pc + 2 + BitVec.ofInt 32 (before.toInt * 2 ^ 12)) :=
  ⟨⟨by decide, (thumbReady_of (s := thumb) (by decide)).2⟩, by decide, by decide, fun before h => by
    have h0 : (machine 0x30 0x102 [(14, 0x20000001)] []).x 14 = 0x20000001 := by decide
    have h1 : (machine 0x30 0x102 [(14, 0x20000001)] []).pc = 0x102 := by decide
    rw [h0, h1, show (0x102 : Word) + 2 = 0x104 from rfl] at h
    have hlo : -2 ^ 10 ≤ before.toInt := BitVec.le_toInt before
    have hhi : before.toInt < 2 ^ 10 := BitVec.toInt_lt
    have := congrArg BitVec.toNat h
    rw [BitVec.toNat_add, BitVec.toNat_ofInt, show (0x20000001 : Word).toNat = 0x20000001 from rfl,
      show (0x104 : Word).toNat = 0x104 from rfl] at this
    omega⟩

theorem witness_SaturatingArithmeticClamps :
    Saturates user (.qadd .al 2 0 0 1) .al 0 ((user.x 1).toInt + (user.x 2).toInt) false ∧
    (Instr.qadd .al 2 0 0 1).wf = true ∧ Cond.holds .al user.cpsr = true ∧ user.armReady :=
  ⟨.qadd _ _ _ _ _, by decide, by decide, armReady_of (by decide)⟩

theorem witness_MultiplyWritesLowWord :
    Multiplies user (.mul .al true 0 0 2 1) .al true 0 ((user.x 1).toNat * (user.x 2).toNat) ∧
    (Instr.mul .al true 0 0 2 1).wf = true ∧ Cond.holds .al user.cpsr = true ∧ user.armReady :=
  ⟨.mul _ _ _ _ _ _, by decide, by decide, armReady_of (by decide)⟩

theorem witness_LongMultiplyWritesPair :
    MultipliesLong user (.smlal .al true 4 3 2 1) .al true 4 3 ((user.x 1).toInt * (user.x 2).toInt + user.pairNat 4 3)
        ∧
    (Instr.smlal .al true 4 3 2 1).wf = true ∧ Cond.holds .al user.cpsr = true ∧ user.armReady :=
  ⟨.smlal _ _ _ _ _ _, by decide, by decide, armReady_of (by decide)⟩

theorem witness_HalfwordMultipliesWriteResult :
    MultipliesHalves user (.smulxy .al 0 0 2 true false 1) .al 0
      (halfInt (user.x 1) false * halfInt (user.x 2) true) false ∧
    (Instr.smulxy .al 0 0 2 true false 1).wf = true ∧ Cond.holds .al user.cpsr = true ∧ user.armReady :=
  ⟨.smulxy _ _ _ _ _ _ _, by decide, by decide, armReady_of (by decide)⟩

theorem witness_MrsReadsStatusRegisters :
    (14 : Reg) ≠ 15 ∧ (Cond.holds .al svc.cpsr = true ∧ svc.armReady ∧ svc.spsr? = some 0x60000030) ∧
    (Cond.holds .al user.cpsr = true ∧ user.armReady ∧ user.spsr? = none) :=
  ⟨by decide, ⟨by decide, armReady_of (by decide), by decide⟩, by decide, armReady_of (by decide), by decide⟩

theorem witness_MsrWritesTheCpsr :
    (Cond.holds .al user.cpsr = true ∧ user.armReady ∧ Psr.m user.cpsr = 0b10000) ∧
    (Cond.holds .al svc.cpsr = true ∧ svc.armReady ∧ Psr.m svc.cpsr ≠ 0b10000) ∧
    ((Instr.msrImm .al false 15 15 2 0xF).wf = true ∧
      ¬((15 : BitVec 8).setWidth 32).rotateRight (2 * (2 : BitVec 4).toNat) &&& 0x07FFFF00 ≠ (0 : Word)) ∧
    ((Instr.msrImm .al false 1 15 0 0x1F).wf = true ∧
      (0x1F : Word) = ((0x1F : BitVec 8).setWidth 32).rotateRight (2 * (0 : BitVec 4).toNat) ∧
      (0x1F : Word).getLsbD 5 = false ∧ (Mode.ofBits? (Psr.m 0x1F)).isSome = true) ∧
    ((Instr.msrReg .al false 15 15 0 0 0).wf = true ∧ (0 : Reg) ≠ 15 ∧ user.x 0 &&& 0x07FFFF00 ≠ 0) ∧
    ((Instr.msrImm .al false 1 15 0 0x30).wf = true ∧ (0x30 : Word).getLsbD 5 = true) ∧
    ((Instr.msrImm .al false 1 15 0 0).wf = true ∧ (1 : BitVec 4).getLsbD 0 = true ∧ (0 : Word).getLsbD 5 = false ∧
      (Mode.ofBits? (Psr.m 0)).isSome = false) :=
  ⟨⟨by decide, armReady_of (by decide), by decide⟩, ⟨by decide, armReady_of (by decide), by decide⟩, by decide, by
      decide,
    by decide, by decide, by decide⟩

theorem witness_MsrWritesTheSpsr :
    (Instr.msrReg .al true 15 15 0 0 7).wf = true ∧ (7 : Reg) ≠ 15 ∧
    (Cond.holds .al svc.cpsr = true ∧ svc.armReady ∧ ¬svc.x 7 &&& 0x07FFFF00 ≠ 0 ∧ svc.spsr? = some 0x60000030 ∧
      svc.mode = some .svc) ∧
    ((Instr.msrReg .al true 15 15 0 0 0).wf = true ∧ (0 : Reg) ≠ 15 ∧ svc.x 0 &&& 0x07FFFF00 ≠ 0) ∧
    (Cond.holds .al user.cpsr = true ∧ user.armReady ∧ ¬user.x 7 &&& 0x07FFFF00 ≠ 0 ∧ user.spsr? = none) :=
  ⟨by decide, by decide, ⟨by decide, armReady_of (by decide), by decide, by decide, by decide⟩, by decide, by decide,
    armReady_of (by decide), by decide, by decide⟩

theorem witness_SwapExchangesRegisterAndMemory :
    Cond.holds .al user.cpsr = true ∧ user.armReady ∧ (Instr.swp .al 1 0 0 2).wf = true ∧
    (user.settings.alignFault = false ∧ user.settings.aborts .read user.privileged 4 (user.x 1 &&& 0xFFFFFFFC) = false ∧
      user.settings.aborts .write user.privileged 4 (user.x 1 &&& 0xFFFFFFFC) = false ∧
      user.holds (user.x 1 &&& 0xFFFFFFFC) 4 0xDDCCBBAA) ∧
    user.settings.aborts .read user.privileged 1 (user.x 1) = false ∧
    user.settings.aborts .write user.privileged 1 (user.x 1) = false ∧ user.holds (user.x 1) 1 0xDD :=
  ⟨by decide, armReady_of (by decide), by decide, ⟨by decide, by decide, by decide, holds_of (by decide)⟩, by decide,
    by decide, holds_of (by decide)⟩

theorem witness_WordLoadsRotateTheAlignedWord :
    Cond.holds .al user.cpsr = true ∧ user.armReady ∧ user.settings.alignFault = false ∧
    (let m := user.wordImm true true false 1 0;
      LoadsWord user (.ldrImm .al true true false 1 0 0) .al user.privileged m 0 ∧
      (Instr.ldrImm .al true true false 1 0 0).wf = true ∧ (0 : Reg) ≠ 15 ∧
      user.settings.aborts .read user.privileged 4 (m.start &&& 0xFFFFFFFC) = false ∧
      user.holds (m.start &&& 0xFFFFFFFC) 4 0xDDCCBBAA) ∧
    (let m := user.wordImm false true false 4 4;
      LoadsWord user (.ldrImm .al false true false 4 15 4) .al user.privileged m 15 ∧
      (Instr.ldrImm .al false true false 4 15 4).wf = true ∧ m.start.toNat % 4 = 0 ∧ 0x112233 % 4 ≠ 2 ∧
      user.holds (m.start &&& 0xFFFFFFFC) 4 0x112233) ∧
    (let m := user.wordImm true true false 0 4;
      LoadsWord user (.ldrImm .al true true false 0 15 4) .al user.privileged m 15 ∧
      (Instr.ldrImm .al true true false 0 15 4).wf = true ∧ m.start.toNat % 4 = 0 ∧ 0x9002 % 4 = 2 ∧
      user.holds (m.start &&& 0xFFFFFFFC) 4 0x9002) ∧
    (let m := user.wordImm true true false 5 0;
      LoadsWord user (.ldrImm .al true true false 5 15 0) .al user.privileged m 15 ∧
      (Instr.ldrImm .al true true false 5 15 0).wf = true ∧ m.start.toNat % 4 ≠ 0 ∧
      user.holds (m.start &&& 0xFFFFFFFC) 4 0x76543210) :=
  ⟨by decide, armReady_of (by decide), by decide,
    ⟨.ldrImm _ _ _ _ _ _ _, by decide, by decide, by decide, holds_of (by decide)⟩,
    ⟨.ldrImm _ _ _ _ _ _ _, by decide, by decide, by decide, holds_of (by decide)⟩,
    ⟨.ldrImm _ _ _ _ _ _ _, by decide, by decide, by decide, holds_of (by decide)⟩,
    .ldrImm _ _ _ _ _ _ _, by decide, by decide, holds_of (by decide)⟩

theorem witness_NarrowLoadsExtend :
    Cond.holds .al user.cpsr = true ∧ user.armReady ∧
    (let m := user.extraImm true true false 6 0 0;
      LoadsNarrow user (.ldrshImm .al true true false 6 0 0 0) .al user.privileged m 0 2 true ∧
      (Instr.ldrshImm .al true true false 6 0 0 0).wf = true ∧ m.start.toNat % 2 = 0 ∧
      user.settings.aborts .read user.privileged 2 m.start = false ∧ user.holds m.start 2 0xDDCC) ∧
    (let m := user.wordImm false true true 1 1;
      LoadsNarrow user (.ldrbtImm .al true 1 0 1) .al false m 0 1 false ∧
      (Instr.ldrbtImm .al true 1 0 1).wf = true ∧ m.start.toNat % 1 = 0 ∧
      user.settings.aborts .read false 1 m.start = false ∧ user.holds m.start 1 0xDD) ∧
    (let m := user.extraImm true false false 1 0 2;
      LoadsNarrow user (.ldrhImm .al true false false 1 0 0 2) .al user.privileged m 0 2 false ∧
      (Instr.ldrhImm .al true false false 1 0 0 2).wf = true ∧ m.start.toNat % 2 ≠ 0 ∧ m.start.toNat + 2 ≤ 2 ^ 32 ∧
      user.settings.alignFault = false) :=
  ⟨by decide, armReady_of (by decide),
    ⟨.ldrshImm _ _ _ _ _ _ _ _, by decide, by decide, by decide, holds_of (by decide)⟩,
    ⟨.ldrbtImm _ _ _ _ _, by decide, by decide, by decide, holds_of (by decide)⟩,
    .ldrhImm _ _ _ _ _ _ _ _, by decide, by decide, by decide, by decide⟩

theorem witness_StoresWriteTheirBytesAlone :
    Cond.holds .al user.cpsr = true ∧ user.armReady ∧
    (let m := user.wordImm true true false 1 0;
      Stores user (.strImm .al true true false 1 15 0) .al user.privileged m 4 (user.pc + user.settings.storePc.value) ∧
      (Instr.strImm .al true true false 1 15 0).wf = true ∧ user.settings.alignFault = false ∧
      user.settings.aborts .write user.privileged 4 (m.start &&& 0xFFFFFFFC) = false) ∧
    (let m := user.extraImm true true false 6 0 0;
      Stores user (.strhImm .al true true false 6 0 0 0) .al user.privileged m 2 (user.x 0) ∧
      (Instr.strhImm .al true true false 6 0 0 0).wf = true ∧ m.start.toNat % 2 = 0 ∧
      user.settings.aborts .write user.privileged 2 m.start = false) ∧
    (let m := user.wordImm true true false 1 0;
      Stores user (.strbImm .al true true false 1 0 0) .al user.privileged m 1 (user.x 0) ∧
      (Instr.strbImm .al true true false 1 0 0).wf = true ∧ user.settings.aborts .write user.privileged 1 m.start =
          false) :=
  ⟨by decide, armReady_of (by decide), ⟨.strImm _ _ _ _ _ 15 _, by decide, by decide, by decide⟩,
    ⟨.strhImm _ _ _ _ _ _ _ _, by decide, by decide, by decide⟩, .strbImm _ _ _ _ _ _ _, by decide, by decide⟩

theorem witness_DoublewordTransfersMoveTwoWords :
    Cond.holds .al user.cpsr = true ∧ user.armReady ∧
    (let m := user.extraImm true true false 4 0 0;
      Doubles user (.ldrdImm .al true true false 4 2 0 0) .al m 2 false ∧
      (Instr.ldrdImm .al true true false 4 2 0 0).wf = true ∧ m.start.toNat % 8 = 0 ∧ user.admits .read m.start 2 ∧
      user.holdsWords m.start [0x00112233, 0xDDCCBBAA]) ∧
    (let m := user.extraImm true true false 4 0 0;
      Doubles user (.strdImm .al true true false 4 12 0 0) .al m 12 true ∧
      (Instr.strdImm .al true true false 4 12 0 0).wf = true ∧ m.start.toNat % 8 = 0 ∧ user.admits .write m.start 2) :=
  ⟨by decide, armReady_of (by decide),
    ⟨.ldrdImm _ _ _ _ _ _ _ _, by decide, by decide, admits_of (by decide), holdsWords_of (by decide)⟩,
    .strdImm _ _ _ _ _ _ _ _, by decide, by decide, admits_of (by decide)⟩

theorem witness_AlignmentFaultsAbort :
    let s := checked user
    let t := checked { thumb with regs := user.regs }
    (s.settings.alignFault = true ∧ Cond.holds .al s.cpsr = true) ∧
    (LoadsWord s (.ldrImm .al true true false 1 0 0) .al s.privileged (s.wordImm true true false 1 0) 0 ∧
      (Instr.ldrImm .al true true false 1 0 0).wf = true ∧ (s.wordImm true true false 1 0).start.toNat % 4 ≠ 0) ∧
    (LoadsNarrow s (.ldrhImm .al true false false 1 0 0 2) .al s.privileged (s.extraImm true false false 1 0 2) 0 2
        false ∧
      (Instr.ldrhImm .al true false false 1 0 0 2).wf = true ∧ (s.extraImm true false false 1 0 2).start.toNat % 2 ≠ 0 ∧
      (s.extraImm true false false 1 0 2).start.toNat + 2 ≤ 2 ^ 32) ∧
    (Stores s (.strImm .al true true false 1 0 0) .al s.privileged (s.wordImm true true false 1 0) 4 (s.x 0) ∧
      (Instr.strImm .al true true false 1 0 0).wf = true ∧ (s.wordImm true true false 1 0).start.toNat % 4 ≠ 0) ∧
    (ThumbLoads t (.tLdr1 0 5 0) (t.x 5 + 0) 0 4 false ∧ (Instr.tLdr1 0 5 0).wf = true ∧ (t.x 5 + 0).toNat % 4 ≠ 0 ∧
      (t.x 5 + 0).toNat + 4 ≤ 2 ^ 32) ∧
    (ThumbStores t (.tStrh2 7 0 0) (t.x 0 + t.x 7) 0 2 ∧ (Instr.tStrh2 7 0 0).wf = true ∧ (t.x 0 + t.x 7).toNat % 2 ≠ 0
        ∧
      (t.x 0 + t.x 7).toNat + 2 ≤ 2 ^ 32) ∧
    (Swaps s (.swp .al 1 0 0 2) .al (s.x 1) 4 ∧ (Instr.swp .al 1 0 0 2).wf = true ∧ (s.x 1).toNat % 4 ≠ 0) ∧
    (let m := s.extraImm true false false 3 0 8;
      ReadsWords s (.ldrdImm .al true false false 3 2 0 8) .al m 8 2 ∧
        (Instr.ldrdImm .al true false false 3 2 0 8).wf = true ∧ m.start.toNat % 8 ≠ 0 ∧ sequenceFits m 8 2) ∧
    (let m := block false true false 6 (s.x 6) 1;
      ReadsWords s (.ldm1 .al false true false 6 1) .al m 4 1 ∧ (Instr.ldm1 .al false true false 6 1).wf = true ∧
        WritesWords s (.stm1 .al false true false 6 1) .al m 4 1 (fun k v => ∃ r, (listRegs 1)[k]? = some r ∧
          (k = 0 ∨ ∀ b, m.writeBack ≠ some (r, b)) ∧ v = if r = 15 then s.pc + s.settings.storePc.value else s.x r) ∧
        (Instr.stm1 .al false true false 6 1).wf = true ∧ m.start.toNat % 4 ≠ 0 ∧ sequenceFits m 4 1) :=
  ⟨by decide, ⟨.ldrImm _ _ _ _ _ _ _, by decide, by decide⟩, ⟨.ldrhImm _ _ _ _ _ _ _ _, by decide, by decide, by
      decide⟩,
    ⟨.strImm _ _ _ _ _ 0 _, by decide, by decide⟩, ⟨.tLdr1 0 5 0, by decide, by decide, by decide⟩,
    ⟨.tStrh2 7 0 0, by decide, by decide, by decide⟩, ⟨.swp _ _ _ _ _, by decide, by decide⟩,
    ⟨.double _ _ _ _ (.ldrdImm _ _ _ _ _ _ _ _), by decide, by decide, sequenceFits_of (by decide)⟩,
    .block _ _ _ 1 (.ldm1 _ _ _ _ _ _), by decide, .block _ _ _ 1 (.stm1 _ _ _ _ _ _), by decide, by decide,
    sequenceFits_of (by decide)⟩

theorem witness_AbortedTransfersTakeDataAbort :
    (let s := aborting .read 4 0xFFFFFFFC 0xFFFFFFFC user;
      Cond.holds .al s.cpsr = true ∧ s.settings.alignFault = false ∧
      LoadsWord s (.ldrImm .al true true false 1 0 0) .al s.privileged (s.wordImm true true false 1 0) 0 ∧
      (Instr.ldrImm .al true true false 1 0 0).wf = true ∧ (0 : Reg) ≠ 15 ∧
      s.settings.aborts .read s.privileged 4 ((s.wordImm true true false 1 0).start &&& 0xFFFFFFFC) = true) ∧
    (let s := aborting .read 1 0xFFFFFFFF 0xFFFFFFFF user;
      LoadsNarrow s (.ldrbImm .al true true false 1 0 0) .al s.privileged (s.wordImm true true false 1 0) 0 1 false ∧
      (Instr.ldrbImm .al true true false 1 0 0).wf = true ∧ (s.wordImm true true false 1 0).start.toNat % 1 = 0 ∧
      s.settings.aborts .read s.privileged 1 (s.wordImm true true false 1 0).start = true) ∧
    (let s := aborting .write 1 0xFFFFFFFF 0xFFFFFFFF user;
      Stores s (.strbImm .al true true false 1 0 0) .al s.privileged (s.wordImm true true false 1 0) 1 (s.x 0) ∧
      (Instr.strbImm .al true true false 1 0 0).wf = true ∧ 1 ≠ 4 ∧ (s.wordImm true true false 1 0).start.toNat % 1 = 0
          ∧
      s.settings.aborts .write s.privileged 1 (s.wordImm true true false 1 0).start = true) ∧
    (let s := aborting .write 4 0xFFFFFFFC 0xFFFFFFFC user;
      Stores s (.strImm .al true true false 1 0 0) .al s.privileged (s.wordImm true true false 1 0) 4 (s.x 0) ∧
      (Instr.strImm .al true true false 1 0 0).wf = true ∧
      s.settings.aborts .write s.privileged 4 ((s.wordImm true true false 1 0).start &&& 0xFFFFFFFC) = true) ∧
    (let s := aborting .read 4 0x1000 0x1000 { thumb with regs := user.regs };
      s.thumb = true ∧ ThumbLoads s (.tLdr1 0 5 0) (s.x 5 + 0) 0 4 false ∧ (Instr.tLdr1 0 5 0).wf = true ∧
      s.settings.alignFault = false ∧ (s.x 5 + 0).toNat + 4 ≤ 2 ^ 32 ∧
      s.settings.aborts .read s.privileged 4 (s.x 5 + 0 - BitVec.ofNat 32 ((s.x 5 + 0).toNat % 4)) = true) ∧
    (let s := aborting .write 4 0xFFFFFFFC 0xFFFFFFFC user;
      Swaps s (.swp .al 1 0 0 2) .al (s.x 1) 4 ∧ (Instr.swp .al 1 0 0 2).wf = true ∧ s.settings.alignFault = false ∧
      ¬s.settings.aborts .read s.privileged 4 (s.x 1 &&& 0xFFFFFFFC) = true ∧
      s.holds (s.x 1 &&& 0xFFFFFFFC) 4 0xDDCCBBAA ∧
      s.settings.aborts .write s.privileged 4 (s.x 1 &&& 0xFFFFFFFC) = true) ∧
    (let s := aborting .read 4 0xFFFFFFFC 0xFFFFFFFC user;
      let m := block false true true 4 (s.x 4) 3;
      ReadsWords s (.ldm1 .al false true true 4 3) .al m 4 2 ∧ (Instr.ldm1 .al false true true 4 3).wf = true ∧
      sequenceFits m 4 2 ∧ s.aligned m 4 ∧ s.admits .read m.start 1 ∧ s.holdsWords m.start [0x00112233] ∧
      s.settings.aborts .read s.privileged 4 (alignWord (m.start + BitVec.ofNat 32 (4 * 1))) = true) ∧
    (let s := aborting .write 4 0xFFFFFFFC 0xFFFFFFFC (withCp [.stc 2 false false none] user);
      let m := cpIndexed true true true 4 (s.x 4) 0;
      WritesWords s (.stc .al true true false true 4 2 7 0) .al m 4 2
        (fun k v => v = Config.cpWord 7 (.stc 2 false false none) (s.cpHistory 7) k) ∧
      (Instr.stc .al true true false true 4 2 7 0).wf = true ∧ sequenceFits m 4 2 ∧ s.aligned m 4 ∧
      s.admits .write m.start 1 ∧
      s.settings.aborts .write s.privileged 4 (alignWord (m.start + BitVec.ofNat 32 (4 * 1))) = true) :=
  ⟨⟨by decide, by decide, .ldrImm _ _ _ _ _ _ _, by decide, by decide, by decide⟩,
    ⟨.ldrbImm _ _ _ _ _ _ _, by decide, by decide, by decide⟩,
    ⟨.strbImm _ _ _ _ _ _ _, by decide, by decide, by decide, by decide⟩, ⟨.strImm _ _ _ _ _ 0 _, by decide, by decide⟩,
    ⟨rfl, .tLdr1 0 5 0, by decide, by decide, by decide, by decide⟩,
    ⟨.swp _ _ _ _ _, by decide, by decide, by decide, holds_of (by decide), by decide⟩,
    ⟨.block _ _ _ 3 (.ldm1 _ _ _ _ _ _), by decide, sequenceFits_of (by decide), aligned_of (by decide),
      admits_of (by decide), holdsWords_of (by decide), by decide⟩,
    .stc _ _ _ _ _ 1 (.stc _ _ _ _ _ _ _ _ _) (by decide), by decide, sequenceFits_of (by decide),
    aligned_of (by decide), admits_of (by decide), by decide⟩

theorem witness_BlockLoadsFillTheirRegisters :
    (let m := block false true true 13 (user.x 13) 0x0007;
      LoadsBlock user (.ldm1 .al false true true 13 0x0007) .al m 0x0007 ∧
      (Instr.ldm1 .al false true true 13 0x0007).wf = true ∧ Cond.holds .al user.cpsr = true ∧
      user.readyFor (.ldm1 .al false true true 13 0x0007) ∧
      ([0x44, 0x9001, 0x00112233] : List Word).length = (listRegs 0x0007).length ∧ user.blockOk m.start 3 ∧
      user.admits .read m.start 3 ∧ user.holdsWords m.start [0x44, 0x9001, 0x00112233] ∧
      (0x0007 : BitVec 16).getLsbD 15 = false) ∧
    (let m := block false true true 13 (user.x 13) 0x8010;
      LoadsBlock user (.ldm1 .al false true true 13 0x8010) .al m 0x8010 ∧
      (Instr.ldm1 .al false true true 13 0x8010).wf = true ∧ user.readyFor (.ldm1 .al false true true 13 0x8010) ∧
      ([0x44, 0x9001] : List Word).length = (listRegs 0x8010).length ∧ user.blockOk m.start 2 ∧ user.admits .read
          m.start 2 ∧
      user.holdsWords m.start [0x44, 0x9001] ∧ (0x8010 : BitVec 16).getLsbD 15 = true ∧
      (0x9001 : Word).extractLsb' 0 2 ≠ 0b10) ∧
    (let m := block false true false 3 (user.x 3) 0x8000;
      LoadsBlock user (.ldm1 .al false true false 3 0x8000) .al m 0x8000 ∧
      (Instr.ldm1 .al false true false 3 0x8000).wf = true ∧ user.readyFor (.ldm1 .al false true false 3 0x8000) ∧
      ([0xDDCCBBAA] : List Word).length = (listRegs 0x8000).length ∧ user.blockOk m.start 1 ∧ user.admits .read m.start
          1 ∧
      user.holdsWords m.start [0xDDCCBBAA] ∧ (0xDDCCBBAA : Word).extractLsb' 0 2 = 0b10) :=
  ⟨⟨.ldm1 _ _ _ _ _ _, by decide, by decide, readyFor_of (by decide), by decide, blockOk_of (by decide),
      admits_of (by decide), holdsWords_of (by decide), by decide⟩,
    ⟨.ldm1 _ _ _ _ _ _, by decide, readyFor_of (by decide), by decide, blockOk_of (by decide), admits_of (by decide),
      holdsWords_of (by decide), by decide, by decide⟩,
    .ldm1 _ _ _ _ _ _, by decide, readyFor_of (by decide), by decide, blockOk_of (by decide), admits_of (by decide),
      holdsWords_of (by decide), by decide⟩

theorem witness_BlockStoresWriteTheirWordsAlone :
    (let m := block true false true 1 (user.x 1) 0xFFFF;
      StoresBlock user (.stm1 .al true false true 1 0xFFFF) .al m 0xFFFF ∧
      (Instr.stm1 .al true false true 1 0xFFFF).wf = true ∧ Cond.holds .al user.cpsr = true ∧
      user.readyFor (.stm1 .al true false true 1 0xFFFF) ∧ user.blockOk m.start 16 ∧ user.admits .write m.start 16) ∧
    (let m := block true false true 13 (thumb.x 13) (pushList true 0);
      StoresBlock thumb (.tPush true 0) .al m (pushList true 0) ∧ (Instr.tPush true 0).wf = true ∧
      thumb.readyFor (.tPush true 0) ∧ thumb.blockOk m.start 1 ∧ thumb.admits .write m.start 1) :=
  ⟨⟨.stm1 _ _ _ _ _ _, by decide, by decide, readyFor_of (by decide), blockOk_of (by decide), admits_of (by decide)⟩,
    .tPush _ _, by decide, readyFor_of (by decide), blockOk_of (by decide), admits_of (by decide)⟩

theorem witness_UserBankTransfersAndReturns :
    (Cond.holds .al user.cpsr = true ∧ user.armReady ∧ user.spsr? = none ∧ (Instr.ldm2 .al false true false 0 1).wf =
        true ∧
      (Instr.ldm3 .al false true false 0 0).wf = true ∧ (Instr.stm2 .al false true false 0 0x8000).wf = true) ∧
    (Cond.holds .al svc.cpsr = true ∧ svc.armReady ∧ svc.spsr? = some 0x60000030 ∧
      (Mode.ofBits? (Psr.m 0x60000030)).isSome = true) ∧
    (let m := block false true false 4 (svc.x 4) (0#1 ++ (0x6000 : BitVec 15));
      (Instr.ldm2 .al false true false 4 0x6000).wf = true ∧
      ([0x00112233, 0xDDCCBBAA] : List Word).length = (listRegs (0#1 ++ (0x6000 : BitVec 15))).length ∧
      svc.blockOk m.start 2 ∧ svc.admits .read m.start 2 ∧ svc.holdsWords m.start [0x00112233, 0xDDCCBBAA]) ∧
    (let m := block false true true 4 (svc.x 4) (1#1 ++ (0x2000 : BitVec 15));
      (Instr.ldm3 .al false true true 4 0x2000).wf = true ∧
      ([0x00112233, 0xDDCCBBAA] : List Word).length = (listRegs (1#1 ++ (0x2000 : BitVec 15))).length ∧
      svc.blockOk m.start 2 ∧ svc.admits .read m.start 2 ∧ svc.holdsWords m.start [0x00112233, 0xDDCCBBAA]) ∧
    (let m := block false true false 4 (svc.x 4) 0x8000;
      (Instr.stm2 .al false true false 4 0x8000).wf = true ∧ svc.blockOk m.start 1 ∧ svc.admits .write m.start 1) :=
  ⟨⟨by decide, armReady_of (by decide), by decide, by decide, by decide, by decide⟩,
    ⟨by decide, armReady_of (by decide), by decide, by decide⟩,
    ⟨by decide, by decide, blockOk_of (by decide), admits_of (by decide), holdsWords_of (by decide)⟩,
    ⟨by decide, by decide, blockOk_of (by decide), admits_of (by decide), holdsWords_of (by decide)⟩,
    by decide, blockOk_of (by decide), admits_of (by decide)⟩

theorem witness_RejectedCoprocessorInstructionsTrap :
    Offers user (.cdp .al 1 3 2 7 5 4) .al 7 (.cdp 1 5 2 3 4 false) [] ∧ (Instr.cdp .al 1 3 2 7 5 4).wf = true ∧
    Cond.holds .al user.cpsr = true ∧ ∀ r, r ∈ user.coprocs → r.cp = 7 → r.op = .cdp 1 5 2 3 4 false →
      r.answer = .decides ∧ Config.cpReply 7 (.cdp 1 5 2 3 4 false) [] (user.cpHistory 7) = none :=
  ⟨.sends _ _ _ _ _ (.cdp _ _ _ _ _ _ _), by decide, by decide, fun _ h => absurd h List.not_mem_nil⟩

theorem witness_AcceptedOperationsReachTheCoprocessor :
    let s := withCp [.mcrr 3 4] user
    CpSends s (.mcrr .al 2 1 7 3 4) .al 7 (.mcrr 3 4) [s.x 1, s.x 2] ∧ (Instr.mcrr .al 2 1 7 3 4).wf = true ∧
    Cond.holds .al s.cpsr = true ∧ s.armReady ∧ (s.accepts? 7 (.mcrr 3 4) [s.x 1, s.x 2]).isSome = true :=
  ⟨.mcrr _ _ _ _ _ _, by decide, by decide, armReady_of (by decide), by decide⟩

theorem witness_CoprocessorWordsReachRegisters :
    let s := withCp [.mrc 1 2 3 4 false false, .mrrc 3 4] user
    Cond.holds .al s.cpsr = true ∧ s.armReady ∧
    (CpReceives s (.mrrc .al 2 1 7 3 4) .al 7 (.mrrc 3 4) [1, 2] ∧ (Instr.mrrc .al 2 1 7 3 4).wf = true ∧
      (s.accepts? 7 (.mrrc 3 4) []).isSome = true ∧ 15 ∉ ([1, 2] : List Reg)) ∧
    (CpReceives s (.mrc .al 1 3 15 7 2 4) .al 7 (.mrc 1 2 3 4 false s.privileged) [15] ∧
      (Instr.mrc .al 1 3 15 7 2 4).wf = true ∧
      (s.accepts? 7 (.mrc 1 2 3 4 false s.privileged) []).isSome = true) :=
  ⟨by decide, armReady_of (by decide),
    ⟨.mrrc _ _ _ _ _ _, by decide, by decide, by decide⟩,
    .mrc _ _ _ _ _ _ _, by decide, by decide⟩

theorem witness_CoprocessorTransfersMoveWords :
    let s := withCp [.ldc 2 false false none, .stc 2 false false none] user
    let m := cpIndexed true true true 4 (s.x 4) 0
    Cond.holds .al s.cpsr = true ∧ s.armReady ∧ s.blockOk m.start 2 ∧
    (CpTransfers s (.ldc .al true true false true 4 2 7 0) .al 7 (.ldc 2 false false none) m false ∧
      (Instr.ldc .al true true false true 4 2 7 0).wf = true ∧
      s.accepts? 7 (.ldc 2 false false none) [] = some 1 ∧ s.admits .read m.start 2 ∧
      s.holdsWords m.start [0x00112233, 0xDDCCBBAA]) ∧
    (CpTransfers s (.stc .al true true false true 4 2 7 0) .al 7 (.stc 2 false false none) m true ∧
      (Instr.stc .al true true false true 4 2 7 0).wf = true ∧
      s.accepts? 7 (.stc 2 false false none) [] = some 1 ∧ s.admits .write m.start 2 ∧
      ∃ vs : List Word, vs.length = 2 ∧ ∀ k, k < vs.length →
        vs[k]? = some (Config.cpWord 7 (.stc 2 false false none) (s.cpHistory 7) k)) :=
  ⟨by decide, armReady_of (by decide), blockOk_of (by decide),
    ⟨.ldc _ _ _ _ _ _ _ _ _, by decide, by decide, admits_of (by decide), holdsWords_of (by decide)⟩,
    .stc _ _ _ _ _ _ _ _ _, by decide, by decide, admits_of (by decide),
    (List.range 2).map (Config.cpWord 7 (.stc 2 false false none)
      ((withCp [.ldc 2 false false none, .stc 2 false false none] user).cpHistory 7)),
    by simp, fun k hk => by
      simp only [List.length_map, List.length_range] at hk
      rw [List.getElem?_map, List.getElem?_range hk]; rfl⟩

theorem witness_ThumbArithmeticSetsFlags :
    ThumbCalc thumb (.tCmp3 true false 1 6) none (.sum (thumb.x (highReg true 6)) (~~~thumb.x (highReg false 1)) true) ∧
    (Instr.tCmp3 true false 1 6).wf = true ∧ thumb.thumbReady :=
  ⟨.tCmp3 _ _ _ _, by decide, thumbReady_of (by decide)⟩

theorem witness_ThumbLogicKeepsCarryAndOverflow :
    ThumbLogic thumb (.tBic 1 0) (some 0) (thumb.x (lowReg 0) &&& ~~~thumb.x (lowReg 1)) ∧ (Instr.tBic 1 0).wf = true ∧
    thumb.thumbReady := ⟨.tBic _ _, by decide, thumbReady_of (by decide)⟩

theorem witness_ThumbWritesWithoutFlags :
    thumb.thumbReady ∧
    (ThumbWrites thumb (.tMov3 true false 1 6) (highReg true 6) (thumb.x (highReg false 1)) ∧
      (Instr.tMov3 true false 1 6).wf = true ∧ highReg true 6 ≠ 15) ∧
    (ThumbWrites thumb (.tMov3 true false 1 7) (highReg true 7) (thumb.x (highReg false 1)) ∧
      (Instr.tMov3 true false 1 7).wf = true ∧ highReg true 7 = 15) :=
  ⟨thumbReady_of (by decide), ⟨.tMov3 _ _ _ _, by decide, by decide⟩, .tMov3 _ _ _ _, by decide, by decide⟩

theorem witness_ThumbLoadsExtend :
    thumb.thumbReady ∧
    (let a := thumb.x (lowReg 3) + BitVec.ofNat 32 (4 * (0 : BitVec 5).toNat);
      ThumbLoads thumb (.tLdr1 0 3 0) a 0 4 false ∧ a.toNat % 4 = 0 ∧
      thumb.settings.aborts .read thumb.privileged 4 a = false ∧ thumb.holds a 4 0xDDCCBBAA) ∧
    (let a := thumb.x (lowReg 6) + BitVec.ofNat 32 ((1 : BitVec 5).toNat);
      ThumbLoads thumb (.tLdrb1 1 6 0) a 0 1 false ∧ a.toNat % 1 = 0 ∧
      thumb.settings.aborts .read thumb.privileged 1 a = false ∧ thumb.holds a 1 0xDD) :=
  ⟨thumbReady_of (by decide), ⟨.tLdr1 _ _ _, by decide, by decide, holds_of (by decide)⟩,
    .tLdrb1 _ _ _, by decide, by decide, holds_of (by decide)⟩

theorem witness_ThumbStoresWriteTheirBytesAlone :
    thumb.thumbReady ∧
    (let a := thumb.x (lowReg 6) + BitVec.ofNat 32 (2 * (0 : BitVec 5).toNat);
      ThumbStores thumb (.tStrh1 0 6 0) a 0 2 ∧ a.toNat % 2 = 0 ∧
      thumb.settings.aborts .write thumb.privileged 2 a = false) :=
  ⟨thumbReady_of (by decide), .tStrh1 _ _ _, by decide, by decide⟩

theorem witness_MisalignedThumbTransfersRun :
    let a := thumb.x (lowReg 5) + BitVec.ofNat 32 (4 * (0 : BitVec 5).toNat)
    thumb.thumbReady ∧ thumb.settings.alignFault = false ∧ a.toNat % 4 ≠ 0 ∧ a.toNat + 4 ≤ 2 ^ 32 ∧
    (ThumbLoads thumb (.tLdr1 0 5 0) a 0 4 false ∧
      thumb.settings.aborts .read thumb.privileged 4 (a - BitVec.ofNat 32 (a.toNat % 4)) = false) ∧
    (ThumbStores thumb (.tStr1 0 5 0) a 0 4 ∧
      thumb.settings.aborts .write thumb.privileged 4 (a - BitVec.ofNat 32 (a.toNat % 4)) = false) :=
  ⟨thumbReady_of (by decide), by decide, by decide, by decide, ⟨.tLdr1 _ _ _, by decide⟩, .tStr1 _ _ _, by decide⟩

end Sys2Proof.Tests
end

/-! SUPPORT AND PROOFS of the scope statements. What the meaning of any instruction can do at all: it refuses an ill-formed
instruction (R171), and else it only updates registers, the pc, status registers, memory, what the coprocessors have seen and
the count of free values; no parameter of R6 and no input (R62, D9). -/

namespace Sys2Proof.Machine

/-! ## Ill-formed instructions -/

/-- What stands behind `always` is never reached by an ill-formed instruction. -/
theorem always_of_not_wf {i : Instr} (h : i.wf = false) (r : Result) : always i r = .refused .unpredictableEncoding := by
  simp [always, staticOk, h]

/-- Every meaning begins with the check of the instruction's bits, a conditional one too. -/
theorem exec_eq_always (i : Instr) (s : State) : ∃ r, exec i s = always i r := by
  cases i <;> exact ⟨_, rfl⟩

/-- Settles O4: every meaning begins with the check of the instruction's bits. -/
theorem unpredictableWordsAreRefused : Obligations.UnpredictableWordsAreRefused := by
  intro i s hwf
  obtain ⟨r, hr⟩ := exec_eq_always i s
  rw [hr, always_of_not_wf hwf]

/-! ## The updates that instructions and exceptions are made of -/

/-- `t` comes from `s` by the model's updates of single parts of the state. None of them is an update of a parameter or of an
input. -/
inductive Updates (s : State) : State → Prop
  | refl : Updates s s
  | setReg {t : State} (h : Updates s t) (r : PhysReg) (v : Word) : Updates s (t.setReg r v)
  | setCpsr {t : State} (h : Updates s t) (p : Word) : Updates s (t.setCpsr p)
  | setSpsr {t : State} (h : Updates s t) (p : Word) : Updates s (t.setSpsr p)
  | setPc {t : State} (h : Updates s t) (a : Word) : Updates s (t.setPc a)
  | storeByte {t : State} (h : Updates s t) (a : Word) (b : Byte) : Updates s (t.storeByte a b)
  | cpTake {t : State} (h : Updates s t) (cp : CpNum) (op : CpOp) (ws : List Word) : Updates s (t.cpTake cp op ws)
  | resetCps {t : State} (h : Updates s t) : Updates s t.resetCps
  | useFree {t : State} (h : Updates s t) (n : Nat) : Updates s (t.useFree n)

/-- No update reaches a parameter or an input. -/
theorem Updates.keeps_environment {s t : State} (h : Updates s t) :
    t.settings = s.settings ∧ t.coprocs = s.coprocs ∧ t.lines = s.lines ∧ t.schedule = s.schedule := by
  induction h with
  | refl => exact ⟨rfl, rfl, rfl, rfl⟩
  | setReg _ r v ih => exact ih
  | setCpsr _ p ih => exact ih
  | setSpsr _ p ih => simpa using ih
  | setPc _ a ih => exact ih
  | storeByte _ a b ih => exact ih
  | cpTake _ cp op ws ih => exact ih
  | resetCps _ ih => exact ih
  | useFree _ n ih => exact ih

section
variable {s t : State}

theorem Updates.setX (h : Updates s t) (i : Reg) (v : Word) : Updates s (t.setX i v) := by
  unfold State.setX
  split
  · exact h.setReg _ v
  · exact h

theorem Updates.setXUsr (h : Updates s t) (i : Reg) (v : Word) : Updates s (t.setXUsr i v) := by
  unfold State.setXUsr
  split
  · exact h.setReg _ v
  · exact h

theorem Updates.setXs (h : Updates s t) (l : List (Reg × Word)) : Updates s (t.setXs l) := by
  induction l generalizing t with
  | nil => exact h
  | cons w l ih => exact ih (h.setX w.1 w.2)

theorem Updates.setXsUsr (h : Updates s t) (l : List (Reg × Word)) : Updates s (t.setXsUsr l) := by
  induction l generalizing t with
  | nil => exact h
  | cons w l ih => exact ih (h.setXUsr w.1 w.2)

theorem Updates.setPair (h : Updates s t) (hi lo : Reg) (p : BitVec 64) : Updates s (t.setPair hi lo p) :=
  (h.setX hi _).setX lo _

theorem Updates.stickyQ (h : Updates s t) (sat : Bool) : Updates s (t.stickyQ sat) := by
  rw [State.stickyQ_eq]
  exact h.setCpsr _

theorem Updates.writeBack (h : Updates s t) (w : Option (Reg × Word)) : Updates s (t.writeBack w) := by
  cases w with
  | none => exact h
  | some w => exact h.setX w.1 w.2

theorem Updates.onAbort (h : Updates s t) (w : Option (Reg × Word)) : Updates s (t.onAbort w) := by
  unfold State.onAbort
  split
  · exact h.writeBack w
  · exact h

theorem Updates.storeBytes (h : Updates s t) (a : Word) (bs : List Byte) : Updates s (t.storeBytes a bs) := by
  induction bs generalizing t a with
  | nil => exact h
  | cons b bs ih => exact ih (h.storeByte a b) (a + 1)

theorem Updates.writeBlock (h : Updates s t) (privileged : Bool) (a : Word) (vs : List Word) :
    Updates s (t.writeBlock privileged a vs).1 :=
  State.writeBlock_induction h fun _ b bs hu => hu.storeBytes b bs

theorem Updates.enterException (h : Updates s t) (e : Exception) (link saved : Word) :
    Updates s (enterException e link saved t) :=
  (((h.setCpsr _).setX 14 link).setSpsr saved).setPc _

theorem Updates.takeException (h : Updates s t) (e : Exception) : Updates s (takeException e t) := by
  by_cases he : e = .reset
  · rw [he]
    exact ((h.setCpsr _).useFree 3).resetCps.enterException .reset _ _
  · rw [takeException_of_ne_reset he]
    exact h.enterException e _ _

/-- The entry of a Data Abort, under either abort model. -/
theorem Updates.dataAbort (h : Updates s t) (w : Option (Reg × Word)) :
    Updates s (Machine.takeException .dataAbort (t.onAbort w)) :=
  (h.onAbort w).takeException .dataAbort

end

/-! ## The shared operations only update -/

/-- If `r` answers a next state, that state comes from `s` by updates alone. -/
def OnlyUpdates (s : State) (r : Result) : Prop := ∀ t, r = .next t → Updates s t

namespace OnlyUpdates

section
variable {s u : State} {r : Result}

theorem next (h : Updates s u) : OnlyUpdates s (.next u) := by
  rintro t ⟨⟩
  exact h

theorem refused (e : Refusal) : OnlyUpdates s (.refused e) := fun _ ht => by cases ht

theorem always {i : Instr} (h : OnlyUpdates s r) : OnlyUpdates s (always i r) :=
  fun t ht => h t (always_next.mp ht).2

theorem advance (h : Updates s u) : OnlyUpdates s (advance u) := fun t ht => by
  obtain ⟨-, rfl⟩ := advance_next.mp ht
  exact h.setPc _

theorem onCondition {i : Instr} {c : Cond} (h : OnlyUpdates s r) : OnlyUpdates s (onCondition i c s r) := fun t ht => by
  rcases (onCondition_next.mp ht).2 with ⟨-, ht⟩ | ⟨-, ht⟩
  · exact h t ht
  · exact advance .refl t ht

theorem undefinedInstruction : OnlyUpdates s (undefinedInstruction s) := next (Updates.refl.takeException _)

theorem branchTo (h : Updates s u) (o : Option Word) : OnlyUpdates s (branchTo u o) := fun t ht => by
  obtain ⟨a, -, rfl⟩ := branchTo_next.mp ht
  exact h.setPc a

theorem branchExchange (h : Updates s u) (v : Word) : OnlyUpdates s (branchExchange u v) := fun t ht => by
  obtain ⟨-, rfl⟩ := branchExchange_next.mp ht
  exact (h.setCpsr _).setPc _

theorem exceptionReturn (h : Updates s u) (v : Word) : OnlyUpdates s (exceptionReturn u v) := fun t ht => by
  obtain ⟨p, -, -, rfl⟩ := exceptionReturn_next.mp ht
  exact (h.setCpsr p).setPc _

/-! ### Results in registers and flags -/

theorem writeResult (sf : Bool) (rd : Reg) (o : Alu) : OnlyUpdates s (writeResult s sf rd o) := fun t ht => by
  rcases writeResult_next.mp ht with ⟨-, -, ht⟩ | ⟨-, -, ht⟩ | ⟨-, ht⟩
  · exact exceptionReturn .refl _ t ht
  · obtain ⟨-, rfl⟩ := branchPlain_next.mp ht
    exact Updates.refl.setPc _
  · cases sf with
    | false => exact advance (Updates.refl.setX rd _) t ht
    | true => exact advance ((Updates.refl.setX rd _).setCpsr _) t ht

theorem testResult (o : Alu) : OnlyUpdates s (testResult s o) := advance (Updates.refl.setCpsr _)

theorem writeProduct (sf : Bool) (rd : Reg) (v : Word) : OnlyUpdates s (writeProduct s sf rd v) := by
  cases sf with
  | false => exact advance (Updates.refl.setX rd v)
  | true => exact advance ((Updates.refl.setX rd v).setCpsr _)

theorem writeLong (sf : Bool) (hi lo : Reg) (p : BitVec 64) : OnlyUpdates s (writeLong s sf hi lo p) := by
  cases sf with
  | false => exact advance (Updates.refl.setPair hi lo p)
  | true => exact advance ((Updates.refl.setPair hi lo p).setCpsr _)

theorem writeAccumulated (rd : Reg) (i : Int) : OnlyUpdates s (writeAccumulated s rd i) :=
  advance ((Updates.refl.setX rd _).stickyQ _)

theorem writeSat (rd : Reg) (i : Int) (before : Bool) : OnlyUpdates s (writeSat s rd i before) :=
  advance ((Updates.refl.setX rd _).stickyQ _)

theorem readPsr (r : Bool) (rd : Reg) : OnlyUpdates s (readPsr s r rd) := fun t ht => by
  rcases readPsr_next.mp ht with ⟨-, ht⟩ | ⟨-, p, -, ht⟩
  · exact advance (Updates.refl.setX rd _) t ht
  · exact advance (Updates.refl.setX rd p) t ht

theorem writePsr (r : Bool) (mask : BitVec 4) (operand : Word) : OnlyUpdates s (writePsr s r mask operand) := fun t ht => by
  rcases (writePsr_next.mp ht).2 with ⟨-, p, -, ht⟩ | ⟨-, -, -, -, ht⟩ | ⟨-, -, ht⟩
  · exact advance (Updates.refl.setSpsr _) t ht
  · exact advance (Updates.refl.setCpsr _) t ht
  · exact advance (Updates.refl.setCpsr _) t ht

theorem setFlags (rd : LowReg) (o : Alu) : OnlyUpdates s (setFlags s rd o) :=
  advance ((Updates.refl.setX _ _).setCpsr _)

theorem setNZ (rd : LowReg) (v : Word) : OnlyUpdates s (setNZ s rd v) := advance ((Updates.refl.setX _ v).setCpsr _)

theorem compareFlags (o : Alu) : OnlyUpdates s (compareFlags s o) := advance (Updates.refl.setCpsr _)

theorem writeHigh (rd : Reg) (v : Word) : OnlyUpdates s (writeHigh s rd v) := fun t ht => by
  rcases writeHigh_next.mp ht with ⟨-, rfl⟩ | ⟨-, ht⟩
  · exact Updates.refl.setPc _
  · exact advance (Updates.refl.setX rd v) t ht

/-! ### Single transfers -/

theorem finishLoad (m : Address) (rd : Reg) (v : Word) : OnlyUpdates s (finishLoad s m rd v) :=
  advance ((Updates.refl.writeBack _).setX rd v)

theorem loadWord (privileged : Bool) (m : Address) (rd : Reg) : OnlyUpdates s (loadWord s privileged m rd) := fun t ht => by
  rcases loadWord_next ht with ⟨w, -, ⟨-, ht⟩ | ⟨-, -, ht⟩⟩ | rfl
  · exact finishLoad m rd _ t ht
  · exact branchExchange (Updates.refl.writeBack _) w t ht
  · exact Updates.refl.dataAbort _

theorem loadByte (privileged : Bool) (m : Address) (rd : Reg) : OnlyUpdates s (loadByte s privileged m rd) := fun t ht => by
  rcases loadByte_next ht with ⟨b, -, ht⟩ | rfl
  · exact finishLoad m rd _ t ht
  · exact Updates.refl.dataAbort _

theorem loadSignedByte (m : Address) (rd : Reg) : OnlyUpdates s (loadSignedByte s m rd) := fun t ht => by
  rcases loadSignedByte_next ht with ⟨b, -, ht⟩ | rfl
  · exact finishLoad m rd _ t ht
  · exact Updates.refl.dataAbort _

theorem loadHalf (m : Address) (rd : Reg) (ext : Half → Word) : OnlyUpdates s (loadHalf s m rd ext) := fun t ht => by
  rcases loadHalf_next ht with ⟨v, -, -, ht⟩ | rfl
  · exact finishLoad m rd _ t ht
  · exact Updates.refl.dataAbort _

theorem storeWord (privileged : Bool) (m : Address) (v : Word) : OnlyUpdates s (storeWord s privileged m v) := fun t ht => by
  rcases storeWord_next ht with ht | rfl
  · exact advance ((Updates.refl.storeBytes _ _).writeBack _) t ht
  · exact Updates.refl.dataAbort _

theorem storeByte (privileged : Bool) (m : Address) (v : Word) : OnlyUpdates s (storeByte s privileged m v) := fun t ht => by
  rcases storeByte_next ht with ht | rfl
  · exact advance ((Updates.refl.storeBytes _ _).writeBack _) t ht
  · exact Updates.refl.dataAbort _

theorem storeHalf (m : Address) (v : Word) : OnlyUpdates s (storeHalf s m v) := fun t ht => by
  rcases storeHalf_next ht with ⟨-, ht⟩ | rfl
  · exact advance ((Updates.refl.storeBytes _ _).writeBack _) t ht
  · exact Updates.refl.dataAbort _

theorem misaligned (m : Address) (size : Nat) (h : OnlyUpdates s r) : OnlyUpdates s (misaligned s m size r) := fun t ht => by
  rcases (misaligned_next.mp ht).2 with ⟨-, rfl⟩ | ⟨-, ht⟩
  · exact Updates.refl.dataAbort _
  · exact h t ht

theorem swapWord (rn rd rm : Reg) : OnlyUpdates s (swapWord s rn rd rm) := fun t ht => by
  rcases swapWord_next ht with ⟨w, -, ht⟩ | rfl
  · exact advance ((Updates.refl.storeBytes _ _).setX rd _) t ht
  · exact Updates.refl.takeException _

theorem swapByte (rn rd rm : Reg) : OnlyUpdates s (swapByte s rn rd rm) := fun t ht => by
  rcases swapByte_next ht with ⟨b, -, ht⟩ | rfl
  · exact advance ((Updates.refl.storeBytes _ _).setX rd _) t ht
  · exact Updates.refl.takeException _

/-! ### Sequences of words -/

theorem loadBlock (m : Address) (n : Nat) {k : List Word → Result} (h : ∀ vs, OnlyUpdates s (k vs)) :
    OnlyUpdates s (loadBlock s m n k) := fun t ht => by
  rcases (loadBlock_next ht).2 with ⟨vs, -, ht⟩ | rfl
  · exact h vs t ht
  · exact Updates.refl.dataAbort _

theorem finishBlock {w : State × Bool} (h : Updates s w.1) (wb : Option (Reg × Word)) :
    OnlyUpdates s (finishBlock w wb) := fun t ht => by
  rcases finishBlock_next.mp ht with ⟨-, ht⟩ | ⟨-, rfl⟩
  · exact advance (h.writeBack wb) t ht
  · exact h.dataAbort wb

theorem storeBlock (h : Updates s u) (m : Address) (vs : List Word) : OnlyUpdates s (storeBlock u m vs) := fun t ht => by
  rcases (storeBlock_next ht).2 with ⟨-, ht⟩ | ⟨-, rfl⟩ | rfl
  · exact advance ((h.writeBlock _ _ _).writeBack _) t ht
  · exact (h.writeBlock _ _ _).dataAbort _
  · exact h.dataAbort _

theorem loadDouble (m : Address) (rd : Reg) : OnlyUpdates s (loadDouble s m rd) := by
  unfold Machine.loadDouble
  split
  · exact misaligned m 8 (refused _)
  · intro t ht
    rcases Access.andThen_next.mp ht with ⟨vs, -, ht⟩ | ⟨-, rfl⟩
    · exact advance ((Updates.refl.writeBack _).setXs _) t ht
    · exact Updates.refl.dataAbort _

theorem storeDouble (m : Address) (rd : Reg) : OnlyUpdates s (storeDouble s m rd) := by
  unfold Machine.storeDouble
  split
  · exact misaligned m 8 (refused _)
  · exact finishBlock (Updates.refl.writeBlock _ _ _) _

theorem loadMultiple (m : Address) (list : BitVec 16) : OnlyUpdates s (loadMultiple s m list) := fun t ht => by
  rcases loadMultiple_next ht with ⟨vs, -, ⟨-, ht⟩ | ⟨-, ht⟩⟩ | rfl
  · exact branchExchange ((Updates.refl.setXs _).writeBack _) _ t ht
  · exact advance ((Updates.refl.setXs _).writeBack _) t ht
  · exact Updates.refl.dataAbort _

theorem storeMultiple (m : Address) (list : BitVec 16) : OnlyUpdates s (storeMultiple s m list) :=
  storeBlock (Updates.refl.useFree _) m _

theorem loadUser (m : Address) (list : BitVec 16) : OnlyUpdates s (loadUser s m list) := fun t ht => by
  rcases (loadUser_next ht).2 with ⟨vs, -, ht⟩ | rfl
  · exact advance (Updates.refl.setXsUsr _) t ht
  · exact Updates.refl.dataAbort _

theorem loadReturn (m : Address) (list : BitVec 16) : OnlyUpdates s (loadReturn s m list) := fun t ht => by
  rcases (loadReturn_next ht).2 with ⟨vs, -, ht⟩ | rfl
  · exact exceptionReturn ((Updates.refl.setXs _).writeBack _) _ t ht
  · exact Updates.refl.dataAbort _

theorem storeUser (m : Address) (list : BitVec 16) : OnlyUpdates s (storeUser s m list) :=
  fun t ht => storeBlock .refl m _ t (storeUser_next ht).2

/-! ### Coprocessors -/

theorem offer (cp : CpNum) (op : CpOp) (ws : List Word) {k : BitVec 4 → Result} (h : ∀ n, OnlyUpdates s (k n)) :
    OnlyUpdates s (offer s cp op ws k) := fun t ht => by
  rcases offer_next.mp ht with ⟨n, -, ht⟩ | ⟨-, rfl⟩
  · exact h n t ht
  · exact Updates.refl.takeException _

theorem sendToCp (cp : CpNum) (op : CpOp) (ws : List Word) : OnlyUpdates s (sendToCp s cp op ws) :=
  offer cp op ws fun _ => advance (Updates.refl.cpTake cp op ws)

theorem moveFromCp (cp : CpNum) (op : CpOp) (rd : Reg) : OnlyUpdates s (moveFromCp s cp op rd) :=
  offer cp op [] fun _ => by
    by_cases h : rd = 15
    · simpa only [if_pos h] using advance (Updates.refl.setCpsr _)
    · simpa only [if_neg h] using advance (Updates.refl.setX rd _)

theorem movePairFromCp (cp : CpNum) (op : CpOp) (rd rn : Reg) : OnlyUpdates s (movePairFromCp s cp op rd rn) :=
  offer cp op [] fun _ => advance ((Updates.refl.setX rd _).setX rn _)

theorem loadCp (cp : CpNum) (op : CpOp) (m : Address) : OnlyUpdates s (loadCp s cp op m) :=
  offer cp op [] fun _ => loadBlock m _ fun vs => advance ((Updates.refl.cpTake cp op vs).writeBack _)

theorem storeCp (cp : CpNum) (op : CpOp) (m : Address) : OnlyUpdates s (storeCp s cp op m) :=
  offer cp op [] fun _ => storeBlock .refl m _

/-! ### Thumb transfers -/

theorem loadFree (size : Nat) (aligned : Word) (rd : LowReg) : OnlyUpdates s (loadFree s size aligned rd) := fun t ht => by
  rcases loadFree_next.mp ht with ⟨-, rfl⟩ | ⟨-, ht⟩
  · exact Updates.refl.dataAbort _
  · exact advance ((Updates.refl.setX _ _).useFree 1) t ht

theorem storeFree (size : Nat) (aligned a : Word) : OnlyUpdates s (storeFree s size aligned a) := fun t ht => by
  rcases storeFree_next.mp ht with ⟨-, rfl⟩ | ⟨-, ht⟩
  · exact Updates.refl.dataAbort _
  · exact advance ((Updates.refl.useFree 2).storeBytes _ _) t ht

theorem thumbLoadWord (a : Word) (rd : LowReg) : OnlyUpdates s (thumbLoadWord s a rd) := by
  unfold Machine.thumbLoadWord
  split
  · exact loadWord _ _ _
  · exact misaligned _ 4 (loadFree 4 _ rd)

theorem thumbLoadHalf (a : Word) (rd : LowReg) (ext : Half → Word) : OnlyUpdates s (thumbLoadHalf s a rd ext) := by
  unfold Machine.thumbLoadHalf
  split
  · exact misaligned _ 2 (loadFree 2 _ rd)
  · exact loadHalf _ _ ext

theorem thumbStoreWord (a : Word) (rd : LowReg) : OnlyUpdates s (thumbStoreWord s a rd) := by
  unfold Machine.thumbStoreWord
  split
  · exact storeWord _ _ _
  · exact misaligned _ 4 (storeFree 4 _ a)

theorem thumbStoreHalf (a : Word) (rd : LowReg) : OnlyUpdates s (thumbStoreHalf s a rd) := by
  unfold Machine.thumbStoreHalf
  split
  · exact misaligned _ 2 (storeFree 2 _ a)
  · exact storeHalf _ _

end

/-! ### Every instruction -/

/-- The meaning of every instruction only updates: the cases go by the operation that the meanings share. -/
theorem exec (i : Instr) (s : State) : OnlyUpdates s (exec i s) := by
  cases i <;> unfold Machine.exec
  case andRegShift | eorRegShift | subRegShift | rsbRegShift | addRegShift | adcRegShift | sbcRegShift | rscRegShift
    | orrRegShift | movRegShift | bicRegShift | mvnRegShift | andImmShift | eorImmShift | subImmShift | rsbImmShift
    | addImmShift | adcImmShift | sbcImmShift | rscImmShift | orrImmShift | movImmShift | bicImmShift | mvnImmShift
    | andImm | eorImm | subImm | rsbImm | addImm | adcImm | sbcImm | rscImm | orrImm | movImm | bicImm | mvnImm =>
    exact onCondition (writeResult _ _ _)
  case tstRegShift | teqRegShift | cmpRegShift | cmnRegShift | tstImmShift | teqImmShift | cmpImmShift | cmnImmShift
    | tstImm | teqImm | cmpImm | cmnImm =>
    exact onCondition (testResult _)
  case mul | mla => exact onCondition (writeProduct _ _ _)
  case umull | umlal | smull | smlal => exact onCondition (writeLong _ _ _ _)
  case smlaxy | smlawy => exact onCondition (writeAccumulated _ _)
  case smlalxy => exact onCondition (advance (Updates.refl.setPair _ _ _))
  case clz | smulwy | smulxy => exact onCondition (advance (Updates.refl.setX _ _))
  case qadd | qsub | qdadd | qdsub => exact onCondition (writeSat _ _ _)
  case mrs => exact onCondition (readPsr _ _)
  case msrReg | msrImm => exact onCondition (writePsr _ _ _)
  case swp => exact onCondition (swapWord _ _ _)
  case swpb => exact onCondition (swapByte _ _ _)
  case ldrtReg | ldrReg | ldrtImm | ldrImm => exact onCondition (loadWord _ _ _)
  case ldrbtReg | ldrbReg | ldrbtImm | ldrbImm => exact onCondition (loadByte _ _ _)
  case ldrsbReg | ldrsbImm => exact onCondition (loadSignedByte _ _)
  case ldrhReg | ldrshReg | ldrhImm | ldrshImm => exact onCondition (loadHalf _ _ _)
  case ldrdReg | ldrdImm => exact onCondition (loadDouble _ _)
  case strtReg | strReg | strtImm | strImm => exact onCondition (storeWord _ _ _)
  case strbtReg | strbReg | strbtImm | strbImm => exact onCondition (storeByte _ _ _)
  case strhReg | strhImm => exact onCondition (storeHalf _ _)
  case strdReg | strdImm => exact onCondition (storeDouble _ _)
  case ldm1 => exact onCondition (loadMultiple _ _)
  case ldm2 => exact onCondition (loadUser _ _)
  case ldm3 => exact onCondition (loadReturn _ _)
  case stm1 => exact onCondition (storeMultiple _ _)
  case stm2 => exact onCondition (storeUser _ _)
  case b | tB1 => exact onCondition (branchTo .refl _)
  case bl => exact onCondition (branchTo (Updates.refl.setX _ _) _)
  case bx => exact onCondition (branchExchange .refl _)
  case blxReg => exact onCondition (branchExchange (Updates.refl.setX _ _) _)
  case swi | bkpt => exact onCondition (next (Updates.refl.takeException _))
  case undefArith | undefImmCompare | undefCompare | undefMedia | undefCoprocExt => exact onCondition undefinedInstruction
  case cdp | mcr | mcrr => exact onCondition (sendToCp _ _ _)
  case mrc => exact onCondition (moveFromCp _ _ _)
  case mrrc => exact onCondition (movePairFromCp _ _ _ _)
  case ldc => exact onCondition (loadCp _ _ _)
  case stc => exact onCondition (storeCp _ _ _)
  case pldImm | pldReg => exact always (advance .refl)
  case cdp2 | mcr2 => exact always (sendToCp _ _ _)
  case mrc2 => exact always (moveFromCp _ _ _)
  case ldc2 => exact always (loadCp _ _ _)
  case stc2 => exact always (storeCp _ _ _)
  case undefCoprocExtUncond | undefSwiUncond | undefBlockUncond | undefUncond | tUndefMisc | tUndefCond | tUndefBlx =>
    exact always undefinedInstruction
  case tBkpt | tSwi => exact always (next (Updates.refl.takeException _))
  case tB2 => exact always (branchTo .refl _)
  case tBlSuffix => exact always (branchTo (Updates.refl.setX _ _) _)
  case blxImm | tBlx1Suffix => exact always (branchTo ((Updates.refl.setX _ _).setCpsr _) _)
  case tBx => exact always (branchExchange .refl _)
  case tBlx2 => exact always (branchExchange (Updates.refl.setX _ _) _)
  case tAdd3 | tSub3 | tAdd1 | tSub1 | tLsl1 | tLsr1 | tAsr1 | tAdd2 | tSub2 | tLsl2 | tLsr2 | tAsr2 | tAdc | tSbc | tRor
    | tNeg =>
    exact always (setFlags _ _)
  case tMov1 | tAnd | tEor | tOrr | tMul | tBic | tMvn => exact always (setNZ _ _)
  case tCmp1 | tCmp2 | tCmn | tCmp3 => exact always (compareFlags _)
  case tTst => exact always (advance (Updates.refl.setCpsr _))
  case tAdd4 | tMov3 => exact always (writeHigh _ _)
  case tAdd5 | tAdd6 | tAdd7 | tSub4 | tBlPrefix => exact always (advance (Updates.refl.setX _ _))
  case tLdr1 | tLdr2 | tLdr3 | tLdr4 => exact always (thumbLoadWord _ _)
  case tLdrh1 | tLdrh2 | tLdrsh => exact always (thumbLoadHalf _ _ _)
  case tLdrb1 | tLdrb2 => exact always (loadByte _ _ _)
  case tLdrsb => exact always (loadSignedByte _ _)
  case tStr1 | tStr2 | tStr3 => exact always (thumbStoreWord _ _)
  case tStrh1 | tStrh2 => exact always (thumbStoreHalf _ _)
  case tStrb1 | tStrb2 => exact always (storeByte _ _ _)
  case tPush | tStmia => exact always (storeMultiple _ _)
  case tPop | tLdmia => exact always (loadMultiple _ _)

end OnlyUpdates

/-! ## The step -/

/-- What a step can do: the inputs of the next boundary come in, then the state is only updated. -/
theorem step_updates {s t : State} (h : step s = .next t) : Updates s.nextInputs t := by
  unfold step at h
  split at h
  · exact OnlyUpdates.next (Updates.refl.takeException _) t h
  · split at h
    · exact OnlyUpdates.exec _ _ t h
    · exact OnlyUpdates.next (Updates.refl.takeException _) t h
    all_goals cases h

/-- The inputs of the next boundary: the head of the schedule, or the present levels where the environment gives no more. -/
theorem State.nextInputs_eq (s : State) :
    s.nextInputs = { s with lines := s.schedule.headD s.lines, schedule := s.schedule.tail } := by
  obtain ⟨_, _, _, _, _, _, _, _, _, _, _, _, _, _, schedule, _⟩ := s
  cases schedule <;> rfl

/-- Settles O9: after the inputs of the next boundary have come in, a step only updates. -/
theorem noStepChangesTheParameters : Obligations.NoStepChangesTheParameters := by
  intro s t h
  have hu := (step_updates h).keeps_environment
  rwa [State.nextInputs_eq] at hu

end Sys2Proof.Machine

/-! SUPPORT AND PROOFS of the statements about the state. First the layer: bits of the MSR masks, alignment of pc targets, the
instruction set of what is fetched, the state in which Reset is entered, well-formedness field by field. Then what the meaning of
any instruction can end in (`Completes`), from which the invariant of well-formed states (R26, R35, R37) and the protection of User
mode (R33, R553, R570) follow. -/

namespace Sys2Proof.Machine

/-! ## The masks of MSR -/

/-- The bits that MSR writes in every mode. -/
theorem getLsbD_userMask (k : Nat) (hk : k < 32) : userMask.getLsbD k = decide (27 ≤ k) := by
  revert k; decide

/-- The bits of the CPSR that MSR writes in a privileged mode. -/
theorem getLsbD_statusMask (k : Nat) (hk : k < 32) :
    (userMask ||| privMask).getLsbD k = decide (27 ≤ k ∨ k < 8 ∧ k ≠ 5) := by
  revert k; decide

/-- The bits of an SPSR that MSR writes. -/
theorem getLsbD_savedMask (k : Nat) (hk : k < 32) :
    (userMask ||| privMask ||| stateMask).getLsbD k = decide (k < 8 ∨ 27 ≤ k) := by
  revert k; decide

/-- What MSR writes where: the operand's bit in each byte that is selected, at each bit that may be written. -/
theorem getLsbD_merge_byteMask (p operand m : Word) (mask : BitVec 4) (k : Nat) (hk : k < 32) :
    (merge p operand (byteMask mask &&& m)).getLsbD k =
      if m.getLsbD k = true ∧ mask.getLsbD (k / 8) = true then operand.getLsbD k else p.getLsbD k := by
  rw [getLsbD_merge p operand _ k hk, BitVec.getLsbD_and, getLsbD_byteMask mask k hk]
  simp only [Bool.and_eq_true, and_comm]

/-- A write of bits that are none of the reserved ones keeps those. -/
theorem reserved_merge (p operand m : Word) (mask : BitVec 4) (hm : ∀ k, 8 ≤ k → k < 27 → m.getLsbD k = false) :
    Psr.reserved (merge p operand (byteMask mask &&& m)) = Psr.reserved p :=
  extract_congr 8 19 fun k hk => by
    rw [getLsbD_merge_byteMask p operand m mask _ (by omega), hm (8 + k) (by omega) (by omega)]
    simp

theorem m_merge_statusMask (p operand : Word) (mask : BitVec 4) :
    Psr.m (merge p operand (byteMask mask &&& (userMask ||| privMask))) =
      if mask.getLsbD 0 = true then Psr.m operand else Psr.m p := by
  have hbit : ∀ k, k < 5 → (merge p operand (byteMask mask &&& (userMask ||| privMask))).getLsbD k =
      if mask.getLsbD 0 = true then operand.getLsbD k else p.getLsbD k := fun k hk => by
    rw [getLsbD_merge_byteMask p operand _ mask k (by omega), getLsbD_statusMask k (by omega), decide_eq_true (by omega),
      Nat.div_eq_of_lt (by omega)]
    simp only [true_and]
  split <;> rename_i h <;> refine extract_congr 0 5 fun k hk => (hbit (0 + k) (by omega)).trans ?_
  · exact if_pos h
  · exact if_neg h

theorem t_merge_statusMask (p operand : Word) (mask : BitVec 4) :
    Psr.t (merge p operand (byteMask mask &&& (userMask ||| privMask))) = Psr.t p := by
  rw [Psr.t, getLsbD_merge_byteMask p operand _ mask 5 (by decide), getLsbD_statusMask 5 (by decide)]
  rfl

theorem reserved_merge_statusMask (p operand : Word) (mask : BitVec 4) :
    Psr.reserved (merge p operand (byteMask mask &&& (userMask ||| privMask))) = Psr.reserved p :=
  reserved_merge p operand _ mask fun k _ _ => by rw [getLsbD_statusMask k (by omega), decide_eq_false (by omega)]

theorem reserved_merge_savedMask (p operand : Word) (mask : BitVec 4) :
    Psr.reserved (merge p operand (byteMask mask &&& (userMask ||| privMask ||| stateMask))) = Psr.reserved p :=
  reserved_merge p operand _ mask fun k _ _ => by rw [getLsbD_savedMask k (by omega), decide_eq_false (by omega)]

/-! ## What the control bits say -/

/-- Two status registers agree on the mode, on the masks of interrupts and on the reserved bits; their flags and T may
differ. -/
structure SameControl (p q : Word) : Prop where
  m : Psr.m p = Psr.m q
  i : Psr.i p = Psr.i q
  f : Psr.f p = Psr.f q
  reserved : Psr.reserved p = Psr.reserved q

theorem SameControl.refl (p : Word) : SameControl p p := ⟨rfl, rfl, rfl, rfl⟩

theorem SameControl.trans {p q r : Word} (h : SameControl p q) (h' : SameControl q r) : SameControl p r :=
  ⟨h.m.trans h'.m, h.i.trans h'.i, h.f.trans h'.f, h.reserved.trans h'.reserved⟩

theorem sameControl_withNZCV (p : Word) (n z c v : Bool) : SameControl (Psr.withNZCV p n z c v) p :=
  ⟨by simp, by simp, by simp, by simp⟩

theorem sameControl_withQ (p : Word) : SameControl (Psr.withQ p) p := ⟨by simp, by simp, by simp, by simp⟩

theorem sameControl_withT (p : Word) (t : Bool) : SameControl (Psr.withT p t) p := ⟨by simp, by simp, by simp, by simp⟩

/-- MSR in User mode reaches the flags alone. -/
theorem getLsbD_merge_userMask (p operand : Word) (mask : BitVec 4) (k : Nat) (hk : k < 27) :
    (merge p operand (byteMask mask &&& userMask)).getLsbD k = p.getLsbD k := by
  rw [getLsbD_merge_byteMask p operand userMask mask k (by omega), getLsbD_userMask k (by omega),
    decide_eq_false (by omega)]
  simp

theorem sameControl_merge_userMask (p operand : Word) (mask : BitVec 4) :
    SameControl (merge p operand (byteMask mask &&& userMask)) p where
  m := extract_congr 0 5 fun k _ => getLsbD_merge_userMask p operand mask (0 + k) (by omega)
  i := getLsbD_merge_userMask p operand mask 7 (by decide)
  f := getLsbD_merge_userMask p operand mask 6 (by decide)
  reserved := extract_congr 8 19 fun k _ => getLsbD_merge_userMask p operand mask (8 + k) (by omega)

/-! ## Alignment of the pc -/

/-- Is the address aligned to the width of an instruction set, Thumb or ARM (R26)? -/
def alignedTo (thumb : Bool) (a : Word) : Bool := if thumb then !a.getLsbD 0 else lowTwo a == 0

theorem State.pcAligned_eq (s : State) : s.pcAligned = alignedTo s.thumb s.pc := rfl

theorem alignedTo_iff (thumb : Bool) (a : Word) : alignedTo thumb a = true ↔ a.toNat % (if thumb then 2 else 4) = 0 := by
  cases thumb
  · simpa [alignedTo] using lowTwo_eq_zero a
  · have := getLsbD_zero_iff a
    cases h : a.getLsbD 0 <;> simp_all [alignedTo]

theorem alignedTo_alignHalf (a : Word) : alignedTo true (alignHalf a) = true := by
  simp only [alignedTo, alignHalf_getLsbD_zero, Bool.not_false, if_true]

theorem alignedTo_alignWord (thumb : Bool) (a : Word) : alignedTo thumb (alignWord a) = true := by
  rw [alignedTo_iff, alignWord_toNat]
  cases thumb <;> simp
  omega

/-- A word-aligned address will do in either instruction set. -/
theorem alignedTo_of_lowTwo {a : Word} (thumb : Bool) (h : lowTwo a = 0) : alignedTo thumb a = true :=
  alignWord_of_lowTwo h ▸ alignedTo_alignWord thumb a

/-- What an exception's return makes of its target is aligned to the instruction set returned to (R323). -/
theorem alignedTo_return (thumb : Bool) (v : Word) : alignedTo thumb (if thumb then alignHalf v else alignWord v) = true := by
  cases thumb
  · exact alignedTo_alignWord false v
  · exact alignedTo_alignHalf v

theorem State.nextPc_congr {s t : State} (hpc : t.pc = s.pc) (ht : t.thumb = s.thumb) : t.nextPc = s.nextPc := by
  rw [State.nextPc, State.nextPc, State.width, State.width, hpc, ht]

theorem State.nextPc_setCpsr {s : State} {p : Word} (ht : Psr.t p = Psr.t s.cpsr) : (s.setCpsr p).nextPc = s.nextPc :=
  State.nextPc_congr rfl ht

/-- The instruction after an aligned one is aligned. -/
theorem alignedTo_nextPc {s : State} (h : s.pcAligned = true) : alignedTo s.thumb s.nextPc = true := by
  rw [State.pcAligned_eq, alignedTo_iff] at h
  rw [alignedTo_iff, State.nextPc, State.width, BitVec.toNat_add, BitVec.toNat_ofNat]
  cases hs : s.thumb <;> simp only [hs, if_true, Bool.false_eq_true, if_false] at h ⊢ <;> omega

/-- A branch by a multiple of the width goes from an aligned address to an aligned one. -/
theorem alignedTo_branchTarget {s : State} {offset : Int} {a : Word} (ha : s.branchTarget? offset = some a)
    (thumb : Bool) (hpc : s.pc.toNat % (if thumb then 2 else 4) = 0) (ho : offset % (if thumb then 2 else 4) = 0) :
    alignedTo thumb a = true := by
  obtain ⟨h0, h1, rfl⟩ := State.branchTarget?_some.mp ha
  rw [alignedTo_iff, BitVec.toNat_ofInt]
  cases thumb <;> cases s.thumb <;>
    simp only [if_true, Bool.false_eq_true, if_false] at hpc ho h0 h1 ⊢ <;> omega

/-- An aligned pc is even. -/
theorem State.pc_even {s : State} (h : s.pcAligned = true) : s.pc.toNat % 2 = 0 := by
  rw [State.pcAligned_eq, alignedTo_iff] at h
  cases hs : s.thumb <;> simp only [hs, if_true, Bool.false_eq_true, if_false] at h <;> omega

/-! ## The instruction set of what is fetched -/

/-- Every branch of the decoder of ARM words ends in an ARM instruction. -/
theorem isThumb_decodeArm (w : Word) : isThumb (decodeArm w) = false := by
  unfold decodeArm decodeUncond decodeCond decodeGroup0 decodeGroup1 decodeGroup2 decodeGroup3 decodeGroup4 decodeGroup5
    decodeGroup6 decodeGroup7 decodeMultiply decodeExtra decodeDspMultiply decodeMisc decodeRegShift decodeImmShift decodeDpImm
  repeat' split
  all_goals rfl

/-- In ARM state, bytes that decode decode to an ARM instruction. -/
theorem isThumb_of_decodeBytes? {s : State} {bs : List Byte} {i : Instr} (hs : s.thumb = false)
    (h : s.decodeBytes? bs = some i) : isThumb i = false := by
  rcases bs with _ | ⟨b0, _ | ⟨b1, _ | ⟨b2, _ | ⟨b3, rest⟩⟩⟩⟩ <;>
    simp only [State.decodeBytes?, decodeBytes, hs, reduceCtorEq, Option.some.injEq] at h
  exact h ▸ isThumb_decodeArm _

/-- A Thumb instruction is fetched in Thumb state only. -/
theorem State.thumb_of_fetch {s : State} {i : Instr} (h : s.fetch = .instr i) (hi : isThumb i = true) : s.thumb = true := by
  by_contra hs
  have hbytes : ∃ bs, s.decodeBytes? bs = some i := by
    unfold State.fetch at h
    split at h <;> try cases h
    split at h <;> try cases h
    split at h <;> try cases h
    split at h <;> cases h
    rename_i hb
    obtain ⟨bs, -, hb⟩ := Option.bind_eq_some_iff.mp hb
    exact ⟨bs, hb⟩
  obtain ⟨bs, hbs⟩ := hbytes
  exact absurd hi (by simp [isThumb_of_decodeBytes? (by simpa using hs) hbs])

/-! ## Well-formed states -/

/-- Memory and the record of stores are in canonical form. -/
def State.Formed (s : State) : Prop := Memory.wf s.mem = true ∧ addressesRise s.stored = true

/-- The reserved bits of every SPSR are zero. -/
def State.SpsrsClean (s : State) : Prop := ∀ m p, s.spsrOf m = some p → Psr.reserved p = 0

theorem State.spsrsClean_iff (s : State) :
    s.SpsrsClean ↔ Psr.reserved s.spsrFiq = 0 ∧ Psr.reserved s.spsrIrq = 0 ∧ Psr.reserved s.spsrSvc = 0 ∧
      Psr.reserved s.spsrAbt = 0 ∧ Psr.reserved s.spsrUnd = 0 := by
  constructor
  · intro h
    exact ⟨h .fiq _ rfl, h .irq _ rfl, h .svc _ rfl, h .abt _ rfl, h .und _ rfl⟩
  · rintro ⟨hfiq, hirq, hsvc, habt, hund⟩ m p hp
    cases m <;> cases hp <;> assumption

/-- The parts of well-formedness, by what they speak of. -/
theorem State.wf_iff (s : State) :
    s.wf = true ↔
      s.mode.isSome = true ∧ Psr.reserved s.cpsr = 0 ∧ s.SpsrsClean ∧ s.pcAligned = true ∧ s.Formed := by
  rw [State.spsrsClean_iff]
  simp only [State.wf, State.Formed, Bool.and_eq_true, beq_iff_eq]
  tauto

theorem State.wf_nextInputs (s : State) : s.nextInputs.wf = s.wf := by
  rw [State.nextInputs_eq]
  rfl

theorem SameSpsrs.clean {s t : State} (h : SameSpsrs s t) (hs : s.SpsrsClean) : t.SpsrsClean :=
  fun m p hp => hs m p (h m ▸ hp)

/-- Writing an SPSR keeps the reserved bits of all clean, if those of the value are. -/
theorem State.spsrsClean_setSpsr {s : State} {p : Word} (hs : s.SpsrsClean) (hp : Psr.reserved p = 0) :
    (s.setSpsr p).SpsrsClean := by
  unfold State.setSpsr
  rw [State.spsrsClean_iff] at hs ⊢
  obtain ⟨hfiq, hirq, hsvc, habt, hund⟩ := hs
  split <;> exact ⟨by assumption, by assumption, by assumption, by assumption, by assumption⟩

/-- The SPSR of the current mode is one of the five. -/
theorem State.SpsrsClean.spsr? {s : State} {p : Word} (hs : s.SpsrsClean) (hp : s.spsr? = some p) :
    Psr.reserved p = 0 := by
  rw [State.spsr?_eq] at hp
  obtain ⟨m, -, hm⟩ := Option.bind_eq_some_iff.mp hp
  exact hs m p hm

/-- User mode has no SPSR. -/
theorem State.spsr?_of_user {s : State} (h : Psr.m s.cpsr = 0b10000) : s.spsr? = none := by
  have hm : s.mode = some .usr := by rw [State.mode, h]; rfl
  rw [State.spsr?_eq, hm]
  rfl

/-! ## Taking Reset -/

/-- The state in which Reset is entered: flags that nothing names, three free values used, the event seen by the
coprocessors (R46, R551). -/
def State.beforeReset (s : State) : State :=
  ((s.setCpsr ((Config.freeWord (s.freeCount + 2)).extractLsb' 27 5 ++ s.cpsr.extractLsb' 0 27)).useFree 3).resetCps

/-- What Reset saves as the status: a free value without reserved bits. -/
def State.resetSaved (s : State) : Word := Config.freeWord (s.freeCount + 1) &&& 0xF80000FF

theorem takeException_reset (s : State) :
    takeException .reset s = enterException .reset s.free s.resetSaved s.beforeReset := rfl

theorem State.sameControl_beforeReset (s : State) : SameControl s.beforeReset.cpsr s.cpsr := by
  have hlow : ∀ k, k < 27 → s.beforeReset.cpsr.getLsbD k = s.cpsr.getLsbD k := fun k hk => by
    simp only [State.beforeReset, State.resetCps_cpsr, State.useFree_cpsr, State.setCpsr_cpsr, BitVec.getLsbD_append]
    simp [hk]
  exact ⟨extract_congr 0 5 fun k _ => hlow (0 + k) (by omega), hlow 7 (by decide), hlow 6 (by decide),
    extract_congr 8 19 fun k _ => hlow (8 + k) (by omega)⟩

theorem State.reserved_resetSaved (s : State) : Psr.reserved s.resetSaved = 0 := by
  apply BitVec.eq_of_getLsbD_eq
  intro k hk
  have hmask : (0xF80000FF : Word).getLsbD (8 + k) = false := by revert k; decide
  rw [Psr.reserved, State.resetSaved, BitVec.getLsbD_extractLsb', BitVec.getLsbD_and, hmask]
  simp

/-! ## Exception entry and well-formedness -/

theorem enterException_pcAligned (e : Exception) (link saved : Word) (s : State) :
    (enterException e link saved s).pcAligned = true := by
  have ht : (enterException e link saved s).thumb = false := by simp [State.thumb]
  have hv : lowTwo (s.vectorBase + e.offset) = 0 := by
    unfold State.vectorBase
    cases s.settings.hivecs <;> cases e <;> decide
  rw [State.pcAligned_eq, ht, enterException_pc]
  exact alignedTo_of_lowTwo false hv

/-- The entry of an exception gives a well-formed state, whatever the mode and the pc were before. -/
theorem enterException_wf {e : Exception} {link saved : Word} {s : State} (hr : Psr.reserved s.cpsr = 0)
    (hs : s.SpsrsClean) (hf : s.Formed) (hp : Psr.reserved saved = 0) : (enterException e link saved s).wf = true := by
  rw [State.wf_iff]
  refine ⟨by simp, by simpa using hr, fun m p hm => ?_, enterException_pcAligned e link saved s, by
    simpa [State.Formed] using hf⟩
  by_cases h : m = e.mode
  · obtain rfl : saved = p := by simpa [h, enterException_spsr] using hm
    exact hp
  · exact hs m p (by rwa [enterException_spsrOf e link saved s h] at hm)

theorem takeException_wf {s : State} (e : Exception) (hr : Psr.reserved s.cpsr = 0) (hs : s.SpsrsClean) (hf : s.Formed) :
    (takeException e s).wf = true := by
  by_cases he : e = .reset
  · rw [he, takeException_reset]
    exact enterException_wf (s.sameControl_beforeReset.reserved.trans hr) hs hf s.reserved_resetSaved
  · rw [takeException_of_ne_reset he]
    exact enterException_wf hr hs hf hr

/-! ## Work on data -/

/-- The registers of the User bank stand below the banked ones in the register file. -/
theorem index_lt_of_physReg_user {i : Reg} {r : PhysReg} (h : physReg (some .usr) i = some r) : r.index.val < 15 := by
  revert h r i
  decide

/-- `u` differs from `s` in what any mode may work on: registers of the executing mode or of the User bank, flags, memory,
what the coprocessors have seen and the count of free values. -/
structure DataOnly (s u : State) : Prop where
  pc : u.pc = s.pc
  control : SameControl u.cpsr s.cpsr
  thumb : u.thumb = s.thumb
  spsrs : SameSpsrs s u
  settings : u.settings = s.settings
  formed : s.Formed → u.Formed
  banked : Psr.m s.cpsr = 0b10000 → ∀ r : PhysReg, 15 ≤ r.index.val → u.reg r = s.reg r

namespace DataOnly

theorem refl {s : State} : DataOnly s s :=
  ⟨rfl, .refl _, rfl, fun _ => rfl, rfl, id, fun _ _ _ => rfl⟩

variable {s u : State}

theorem mode (h : DataOnly s u) : u.mode = s.mode := by
  rw [State.mode, State.mode, h.control.m]

theorem nextPc (h : DataOnly s u) : u.nextPc = s.nextPc := State.nextPc_congr h.pc h.thumb

theorem spsr? (h : DataOnly s u) : u.spsr? = s.spsr? := by
  have hspsrs : u.spsrOf = s.spsrOf := funext h.spsrs
  rw [State.spsr?_eq, State.spsr?_eq, h.mode, hspsrs]

theorem setX (h : DataOnly s u) (i : Reg) (v : Word) : DataOnly s (u.setX i v) where
  pc := by simpa using h.pc
  control := by simpa using h.control
  thumb := by simpa using h.thumb
  spsrs m := by simpa using h.spsrs m
  settings := by simpa using h.settings
  formed hs := by simpa [State.Formed] using h.formed hs
  banked hm r hr := by
    refine (State.reg_setX v fun e => ?_).trans (h.banked hm r hr)
    rw [State.mode, h.control.m, hm] at e
    exact absurd (index_lt_of_physReg_user e) (by omega)

theorem setXUsr (h : DataOnly s u) (i : Reg) (v : Word) : DataOnly s (u.setXUsr i v) where
  pc := by simpa using h.pc
  control := by simpa using h.control
  thumb := by simpa using h.thumb
  spsrs m := by simpa using h.spsrs m
  settings := by simpa using h.settings
  formed hs := by simpa [State.Formed] using h.formed hs
  banked hm r hr :=
    (State.reg_setXUsr v fun e => absurd (index_lt_of_physReg_user e) (by omega)).trans (h.banked hm r hr)

/-- Flags are data. -/
theorem setFlags (h : DataOnly s u) {p : Word} (hp : SameControl p s.cpsr) (ht : Psr.t p = Psr.t s.cpsr) :
    DataOnly s (u.setCpsr p) :=
  { h with control := hp, thumb := ht }

theorem useFree (h : DataOnly s u) (n : Nat) : DataOnly s (u.useFree n) := { h with }

theorem cpTake (h : DataOnly s u) (cp : CpNum) (op : CpOp) (ws : List Word) : DataOnly s (u.cpTake cp op ws) := { h with }

theorem storeBytes (h : DataOnly s u) (a : Word) (bs : List Byte) : DataOnly s (u.storeBytes a bs) where
  pc := by simpa using h.pc
  control := by simpa using h.control
  thumb := by simpa using h.thumb
  spsrs m := by simpa using h.spsrs m
  settings := by simpa using h.settings
  formed hs := State.storeBytes_keeps_form (h.formed hs).1 (h.formed hs).2
  banked hm r hr := by simpa using h.banked hm r hr

theorem writeBlock (h : DataOnly s u) (privileged : Bool) (a : Word) (vs : List Word) :
    DataOnly s (u.writeBlock privileged a vs).1 :=
  State.writeBlock_induction h fun _ b bs hu => hu.storeBytes b bs

theorem setXs (h : DataOnly s u) (l : List (Reg × Word)) : DataOnly s (u.setXs l) := by
  induction l generalizing u with
  | nil => exact h
  | cons w l ih => exact ih (h.setX w.1 w.2)

theorem setXsUsr (h : DataOnly s u) (l : List (Reg × Word)) : DataOnly s (u.setXsUsr l) := by
  induction l generalizing u with
  | nil => exact h
  | cons w l ih => exact ih (h.setXUsr w.1 w.2)

theorem setPair (h : DataOnly s u) (hi lo : Reg) (p : BitVec 64) : DataOnly s (u.setPair hi lo p) :=
  (h.setX hi _).setX lo _

theorem writeBack (h : DataOnly s u) (w : Option (Reg × Word)) : DataOnly s (u.writeBack w) := by
  cases w with
  | none => exact h
  | some w => exact h.setX w.1 w.2

theorem onAbort (h : DataOnly s u) (w : Option (Reg × Word)) : DataOnly s (u.onAbort w) := by
  unfold State.onAbort
  split
  · exact h.writeBack w
  · exact h

/-- N, Z, C and V from a result, whatever data was written before. -/
theorem withNZCV (h : DataOnly s u) (n z c v : Bool) : DataOnly s (u.setCpsr (Psr.withNZCV s.cpsr n z c v)) :=
  h.setFlags (sameControl_withNZCV _ n z c v) (Psr.t_withNZCV _ n z c v)

theorem stickyQ (h : DataOnly s u) (sat : Bool) : DataOnly s (u.stickyQ sat) := by
  rw [State.stickyQ_eq]
  cases sat with
  | false => exact h
  | true => exact h.setFlags ((sameControl_withQ _).trans h.control) ((Psr.t_withQ _).trans h.thumb)

end DataOnly

/-! ## What an instruction can end in -/

/-- The ends of an instruction that runs from `s`: it goes on, T perhaps changed, at an address aligned for the new T; MSR
writes the CPSR in a privileged mode, or the SPSR of a mode that has one; an exception returns, or one is taken. -/
inductive Completes (s : State) : State → Prop
  | goesOn {u : State} (h : DataOnly s u) (p a : Word) (hp : SameControl p s.cpsr)
      (ha : s.pcAligned = true → alignedTo (Psr.t p) a = true) : Completes s ((u.setCpsr p).setPc a)
  | writesStatus (p : Word) (hpriv : s.privileged = true)
      (hmode : s.mode.isSome = true → (Mode.ofBits? (Psr.m p)).isSome = true) (ht : Psr.t p = Psr.t s.cpsr)
      (hr : Psr.reserved p = Psr.reserved s.cpsr) : Completes s ((s.setCpsr p).setPc s.nextPc)
  | writesSaved (p q : Word) (hq : s.spsr? = some q) (hr : Psr.reserved p = Psr.reserved q) :
      Completes s ((s.setSpsr p).setPc s.nextPc)
  | returns {u : State} (h : DataOnly s u) (p v : Word) (hp : s.spsr? = some p)
      (hmode : (Mode.ofBits? (Psr.m p)).isSome = true) :
      Completes s ((u.setCpsr p).setPc (if Psr.t p then alignHalf v else alignWord v))
  | raises {u : State} (h : DataOnly s u) (hc : u.cpsr = s.cpsr) (e : Exception) : Completes s (takeException e u)

/-- A branch within the instruction set. -/
theorem Completes.jump {s u : State} (h : DataOnly s u) {a : Word} (ha : s.pcAligned = true → alignedTo s.thumb a = true) :
    Completes s (u.setPc a) :=
  .goesOn h u.cpsr a h.control fun hs => (show Psr.t u.cpsr = s.thumb from h.thumb) ▸ ha hs

/-- If `r` answers a next state, that state is one of the ends of an instruction from `s`. -/
def Completing (s : State) (r : Result) : Prop := ∀ t, r = .next t → Completes s t

namespace Completing

section
variable {s u : State} {r : Result}

theorem next {t : State} (h : Completes s t) : Completing s (.next t) := by
  rintro t ⟨⟩
  exact h

theorem refused (e : Refusal) : Completing s (.refused e) := fun _ ht => by cases ht

theorem always {i : Instr} (h : Completing s r) : Completing s (always i r) :=
  fun t ht => h t (always_next.mp ht).2

theorem advance (h : DataOnly s u) : Completing s (advance u) := fun t ht => by
  obtain ⟨-, rfl⟩ := advance_next.mp ht
  exact .jump h fun hs => h.nextPc ▸ alignedTo_nextPc hs

theorem onCondition {i : Instr} {c : Cond} (h : Completing s r) : Completing s (onCondition i c s r) := fun t ht => by
  rcases (onCondition_next.mp ht).2 with ⟨-, ht⟩ | ⟨-, ht⟩
  · exact h t ht
  · exact advance .refl t ht

theorem takeException (e : Exception) : Completing s (.next (takeException e s)) := next (.raises .refl rfl e)

/-- A Data Abort after work on data that has left the status alone, under either abort model. -/
theorem dataAbort (h : DataOnly s u) (hc : u.cpsr = s.cpsr) (w : Option (Reg × Word)) :
    Completes s (Machine.takeException .dataAbort (u.onAbort w)) := by
  refine .raises (h.onAbort w) (Eq.trans ?_ hc) .dataAbort
  unfold State.onAbort
  split <;> simp

theorem branchTo (h : DataOnly s u) {o : Option Word}
    (ho : ∀ a, o = some a → s.pcAligned = true → alignedTo s.thumb a = true) : Completing s (branchTo u o) := fun t ht => by
  obtain ⟨a, ha, rfl⟩ := branchTo_next.mp ht
  exact .jump h (ho a ha)

/-- A branch that leaves the instruction set `thumb`. -/
theorem branchToSet (h : DataOnly s u) (thumb : Bool) {o : Option Word}
    (ho : ∀ a, o = some a → s.pcAligned = true → alignedTo thumb a = true) :
    Completing s (Machine.branchTo (u.setCpsr (Psr.withT s.cpsr thumb)) o) := fun t ht => by
  obtain ⟨a, ha, rfl⟩ := branchTo_next.mp ht
  exact .goesOn h _ a (sameControl_withT _ thumb) fun hs => by
    rw [Psr.t_withT]
    exact ho a ha hs

theorem branchExchange (h : DataOnly s u) (v : Word) : Completing s (branchExchange u v) := fun t ht => by
  obtain ⟨htwo, rfl⟩ := branchExchange_next.mp ht
  refine .goesOn h _ _ ((sameControl_withT _ _).trans h.control) fun _ => ?_
  rw [Psr.t_withT]
  cases hv : v.getLsbD 0 with
  | true => exact alignedTo_alignHalf v
  | false =>
    have h2 : (lowTwo v).toNat ≠ 2 := fun e => htwo (BitVec.eq_of_toNat_eq e)
    have h0 : ¬v.toNat % 2 = 1 := fun e => Bool.noConfusion (hv.symm.trans ((getLsbD_zero_iff v).mpr e))
    rw [lowTwo_toNat] at h2
    rw [alignedTo_iff, alignHalf_toNat]
    simp only [Bool.false_eq_true, if_false]
    omega

theorem exceptionReturn (h : DataOnly s u) (v : Word) : Completing s (exceptionReturn u v) := fun t ht => by
  obtain ⟨p, hp, hmode, rfl⟩ := exceptionReturn_next.mp ht
  exact .returns h p v (h.spsr? ▸ hp) hmode

/-! ### Results in registers and flags -/

theorem writeResult (sf : Bool) (rd : Reg) (o : Alu) : Completing s (writeResult s sf rd o) := fun t ht => by
  rcases writeResult_next.mp ht with ⟨-, -, ht⟩ | ⟨-, -, ht⟩ | ⟨-, ht⟩
  · exact exceptionReturn .refl _ t ht
  · obtain ⟨h0, rfl⟩ := branchPlain_next.mp ht
    exact .jump .refl fun _ => alignedTo_of_lowTwo _ h0
  · cases sf with
    | false => exact advance (DataOnly.refl.setX rd _) t ht
    | true => exact advance ((DataOnly.refl.setX rd _).withNZCV _ _ _ _) t ht

theorem testResult (o : Alu) : Completing s (testResult s o) := advance (DataOnly.refl.withNZCV _ _ _ _)

theorem writeProduct (sf : Bool) (rd : Reg) (v : Word) : Completing s (writeProduct s sf rd v) := by
  cases sf with
  | false => exact advance (DataOnly.refl.setX rd v)
  | true => exact advance ((DataOnly.refl.setX rd v).withNZCV _ _ _ _)

theorem writeLong (sf : Bool) (hi lo : Reg) (p : BitVec 64) : Completing s (writeLong s sf hi lo p) := by
  cases sf with
  | false => exact advance (DataOnly.refl.setPair hi lo p)
  | true => exact advance ((DataOnly.refl.setPair hi lo p).withNZCV _ _ _ _)

theorem readPsr (r : Bool) (rd : Reg) : Completing s (readPsr s r rd) := fun t ht => by
  rcases readPsr_next.mp ht with ⟨-, ht⟩ | ⟨-, p, -, ht⟩
  · exact advance (DataOnly.refl.setX rd _) t ht
  · exact advance (DataOnly.refl.setX rd p) t ht

theorem writePsr (r : Bool) (mask : BitVec 4) (operand : Word) : Completing s (writePsr s r mask operand) := fun t ht => by
  rcases (writePsr_next.mp ht).2 with ⟨-, p, hp, ht⟩ | ⟨-, hpriv, -, hlegal, ht⟩ | ⟨-, -, ht⟩
  · obtain ⟨-, rfl⟩ := advance_next.mp ht
    rw [State.nextPc_congr (s := s) (by simp) (by simp)]
    exact .writesSaved _ p hp (reserved_merge_savedMask p operand mask)
  · obtain ⟨-, rfl⟩ := advance_next.mp ht
    rw [State.nextPc_setCpsr (t_merge_statusMask s.cpsr operand mask)]
    refine .writesStatus _ hpriv (fun hm => ?_) (t_merge_statusMask _ _ _) (reserved_merge_statusMask _ _ _)
    rw [m_merge_statusMask]
    split <;> rename_i hsel
    · simpa [illegalModeWrite, hsel] using hlegal
    · exact hm
  · exact advance (DataOnly.refl.setFlags (sameControl_merge_userMask _ _ _)
      (getLsbD_merge_userMask _ _ _ 5 (by decide))) t ht

/-! ### Single transfers -/

theorem finishLoad (m : Address) (rd : Reg) (v : Word) : Completing s (finishLoad s m rd v) :=
  advance ((DataOnly.refl.writeBack _).setX rd v)

theorem loadWord (privileged : Bool) (m : Address) (rd : Reg) : Completing s (loadWord s privileged m rd) := fun t ht => by
  rcases loadWord_next ht with ⟨w, -, ⟨-, ht⟩ | ⟨-, -, ht⟩⟩ | rfl
  · exact finishLoad m rd _ t ht
  · exact branchExchange (DataOnly.refl.writeBack _) w t ht
  · exact dataAbort .refl rfl _

theorem loadByte (privileged : Bool) (m : Address) (rd : Reg) : Completing s (loadByte s privileged m rd) := fun t ht => by
  rcases loadByte_next ht with ⟨b, -, ht⟩ | rfl
  · exact finishLoad m rd _ t ht
  · exact dataAbort .refl rfl _

theorem loadSignedByte (m : Address) (rd : Reg) : Completing s (loadSignedByte s m rd) := fun t ht => by
  rcases loadSignedByte_next ht with ⟨b, -, ht⟩ | rfl
  · exact finishLoad m rd _ t ht
  · exact dataAbort .refl rfl _

theorem loadHalf (m : Address) (rd : Reg) (ext : Half → Word) : Completing s (loadHalf s m rd ext) := fun t ht => by
  rcases loadHalf_next ht with ⟨v, -, -, ht⟩ | rfl
  · exact finishLoad m rd _ t ht
  · exact dataAbort .refl rfl _

/-- A store of bytes, then of the base; or a Data Abort. -/
theorem storeOrAbort {t : State} {m : Address} {a : Word} {bs : List Byte}
    (h : Machine.advance ((s.storeBytes a bs).writeBack m.writeBack) = .next t ∨
      t = Machine.takeException .dataAbort (s.onAbort m.writeBack)) : Completes s t := by
  rcases h with ht | rfl
  · exact advance ((DataOnly.refl.storeBytes _ _).writeBack _) t ht
  · exact dataAbort .refl rfl _

theorem storeWord (privileged : Bool) (m : Address) (v : Word) : Completing s (storeWord s privileged m v) :=
  fun _ ht => storeOrAbort (storeWord_next ht)

theorem storeByte (privileged : Bool) (m : Address) (v : Word) : Completing s (storeByte s privileged m v) :=
  fun _ ht => storeOrAbort (storeByte_next ht)

theorem storeHalf (m : Address) (v : Word) : Completing s (storeHalf s m v) :=
  fun _ ht => storeOrAbort ((storeHalf_next ht).imp_left And.right)

theorem misaligned (m : Address) (size : Nat) (h : Completing s r) : Completing s (misaligned s m size r) := fun t ht => by
  rcases (misaligned_next.mp ht).2 with ⟨-, rfl⟩ | ⟨-, ht⟩
  · exact dataAbort .refl rfl _
  · exact h t ht

theorem swapWord (rn rd rm : Reg) : Completing s (swapWord s rn rd rm) := fun t ht => by
  rcases swapWord_next ht with ⟨w, -, ht⟩ | rfl
  · exact advance ((DataOnly.refl.storeBytes _ _).setX rd _) t ht
  · exact .raises .refl rfl _

theorem swapByte (rn rd rm : Reg) : Completing s (swapByte s rn rd rm) := fun t ht => by
  rcases swapByte_next ht with ⟨b, -, ht⟩ | rfl
  · exact advance ((DataOnly.refl.storeBytes _ _).setX rd _) t ht
  · exact .raises .refl rfl _

/-! ### Sequences of words -/

theorem loadBlock (m : Address) (n : Nat) {k : List Word → Result} (h : ∀ vs, Completing s (k vs)) :
    Completing s (loadBlock s m n k) := fun t ht => by
  rcases (loadBlock_next ht).2 with ⟨vs, -, ht⟩ | rfl
  · exact h vs t ht
  · exact dataAbort .refl rfl _

theorem finishBlock {w : State × Bool} (h : DataOnly s w.1) (hc : w.1.cpsr = s.cpsr) (wb : Option (Reg × Word)) :
    Completing s (finishBlock w wb) := fun t ht => by
  rcases finishBlock_next.mp ht with ⟨-, ht⟩ | ⟨-, rfl⟩
  · exact advance (h.writeBack wb) t ht
  · exact dataAbort h hc wb

theorem storeBlock (h : DataOnly s u) (hc : u.cpsr = s.cpsr) (m : Address) (vs : List Word) :
    Completing s (storeBlock u m vs) := fun t ht => by
  rcases (storeBlock_next ht).2 with ⟨-, ht⟩ | ⟨-, rfl⟩ | rfl
  · exact advance ((h.writeBlock _ _ _).writeBack _) t ht
  · exact dataAbort (h.writeBlock _ _ _) ((State.writeBlock_cpsr _ _ _ _).trans hc) _
  · exact dataAbort h hc _

theorem loadDouble (m : Address) (rd : Reg) : Completing s (loadDouble s m rd) := by
  unfold Machine.loadDouble
  split
  · exact misaligned m 8 (refused _)
  · intro t ht
    rcases Access.andThen_next.mp ht with ⟨vs, -, ht⟩ | ⟨-, rfl⟩
    · exact advance ((DataOnly.refl.writeBack _).setXs _) t ht
    · exact dataAbort .refl rfl _

theorem storeDouble (m : Address) (rd : Reg) : Completing s (storeDouble s m rd) := by
  unfold Machine.storeDouble
  split
  · exact misaligned m 8 (refused _)
  · exact finishBlock (DataOnly.refl.writeBlock _ _ _) (State.writeBlock_cpsr _ _ _ _) _

theorem loadMultiple (m : Address) (list : BitVec 16) : Completing s (loadMultiple s m list) := fun t ht => by
  rcases loadMultiple_next ht with ⟨vs, -, ⟨-, ht⟩ | ⟨-, ht⟩⟩ | rfl
  · exact branchExchange ((DataOnly.refl.setXs _).writeBack _) _ t ht
  · exact advance ((DataOnly.refl.setXs _).writeBack _) t ht
  · exact dataAbort .refl rfl _

theorem storeMultiple (m : Address) (list : BitVec 16) : Completing s (storeMultiple s m list) :=
  storeBlock (DataOnly.refl.useFree _) rfl m _

theorem loadUser (m : Address) (list : BitVec 16) : Completing s (loadUser s m list) := fun t ht => by
  rcases (loadUser_next ht).2 with ⟨vs, -, ht⟩ | rfl
  · exact advance (DataOnly.refl.setXsUsr _) t ht
  · exact dataAbort .refl rfl _

theorem loadReturn (m : Address) (list : BitVec 16) : Completing s (loadReturn s m list) := fun t ht => by
  rcases (loadReturn_next ht).2 with ⟨vs, -, ht⟩ | rfl
  · exact exceptionReturn ((DataOnly.refl.setXs _).writeBack _) _ t ht
  · exact dataAbort .refl rfl _

theorem storeUser (m : Address) (list : BitVec 16) : Completing s (storeUser s m list) :=
  fun t ht => storeBlock .refl rfl m _ t (storeUser_next ht).2

/-! ### Coprocessors -/

theorem offer (cp : CpNum) (op : CpOp) (ws : List Word) {k : BitVec 4 → Result} (h : ∀ n, Completing s (k n)) :
    Completing s (offer s cp op ws k) := fun t ht => by
  rcases offer_next.mp ht with ⟨n, -, ht⟩ | ⟨-, rfl⟩
  · exact h n t ht
  · exact .raises .refl rfl _

theorem sendToCp (cp : CpNum) (op : CpOp) (ws : List Word) : Completing s (sendToCp s cp op ws) :=
  offer cp op ws fun _ => advance (DataOnly.refl.cpTake cp op ws)

theorem moveFromCp (cp : CpNum) (op : CpOp) (rd : Reg) : Completing s (moveFromCp s cp op rd) :=
  offer cp op [] fun _ => by
    by_cases h : rd = 15
    · simpa only [if_pos h] using advance (DataOnly.refl.withNZCV _ _ _ _)
    · simpa only [if_neg h] using advance (DataOnly.refl.setX rd _)

theorem loadCp (cp : CpNum) (op : CpOp) (m : Address) : Completing s (loadCp s cp op m) :=
  offer cp op [] fun _ => loadBlock m _ fun vs => advance ((DataOnly.refl.cpTake cp op vs).writeBack _)

theorem storeCp (cp : CpNum) (op : CpOp) (m : Address) : Completing s (storeCp s cp op m) :=
  offer cp op [] fun _ => storeBlock .refl rfl m _

/-! ### Thumb -/

/-- A Thumb write of the pc clears bit 0, which is enough in Thumb state. -/
theorem writeHigh (hs : s.thumb = true) (rd : Reg) (v : Word) : Completing s (writeHigh s rd v) := fun t ht => by
  rcases writeHigh_next.mp ht with ⟨-, rfl⟩ | ⟨-, ht⟩
  · exact .jump .refl fun _ => hs ▸ alignedTo_alignHalf v
  · exact advance (DataOnly.refl.setX rd v) t ht

theorem loadFree (size : Nat) (aligned : Word) (rd : LowReg) : Completing s (loadFree s size aligned rd) := fun t ht => by
  rcases loadFree_next.mp ht with ⟨-, rfl⟩ | ⟨-, ht⟩
  · exact dataAbort .refl rfl _
  · exact advance ((DataOnly.refl.setX _ _).useFree 1) t ht

theorem storeFree (size : Nat) (aligned a : Word) : Completing s (storeFree s size aligned a) := fun t ht => by
  rcases storeFree_next.mp ht with ⟨-, rfl⟩ | ⟨-, ht⟩
  · exact dataAbort .refl rfl _
  · exact advance ((DataOnly.refl.useFree 2).storeBytes _ _) t ht

theorem thumbLoadWord (a : Word) (rd : LowReg) : Completing s (thumbLoadWord s a rd) := by
  unfold Machine.thumbLoadWord
  split
  · exact loadWord _ _ _
  · exact misaligned _ 4 (loadFree 4 _ rd)

theorem thumbLoadHalf (a : Word) (rd : LowReg) (ext : Half → Word) : Completing s (thumbLoadHalf s a rd ext) := by
  unfold Machine.thumbLoadHalf
  split
  · exact misaligned _ 2 (loadFree 2 _ rd)
  · exact loadHalf _ _ ext

theorem thumbStoreWord (a : Word) (rd : LowReg) : Completing s (thumbStoreWord s a rd) := by
  unfold Machine.thumbStoreWord
  split
  · exact storeWord _ _ _
  · exact misaligned _ 4 (storeFree 4 _ a)

theorem thumbStoreHalf (a : Word) (rd : LowReg) : Completing s (thumbStoreHalf s a rd) := by
  unfold Machine.thumbStoreHalf
  split
  · exact misaligned _ 2 (storeFree 2 _ a)
  · exact storeHalf _ _

/-! ### Branches -/

/-- A branch that counts words, in either instruction set. -/
theorem branchWords (h : DataOnly s u) (offset24 : BitVec 24) :
    Completing s (Machine.branchTo u (s.branchTarget? (wordOffset offset24))) :=
  branchTo h fun a ha hs => by
    rw [State.pcAligned_eq, alignedTo_iff] at hs
    refine alignedTo_branchTarget ha _ hs ?_
    unfold wordOffset
    cases s.thumb <;> simp only [if_true, Bool.false_eq_true, if_false] <;> omega

/-- A Thumb branch, which counts halfwords. -/
theorem branchHalves (hs : s.thumb = true) (n : Int) : Completing s (Machine.branchTo s (s.branchTarget? (2 * n))) :=
  branchTo .refl fun a ha hpc => by
    rw [hs]
    exact alignedTo_branchTarget ha true (State.pc_even hpc) (Int.mul_emod_right 2 n)

end

/-! ### Every instruction -/

/-- The meaning of every instruction completes: the cases go by the operation that the meanings share. A Thumb instruction
must run in Thumb state, or its branches could leave the pc misaligned. -/
theorem exec (i : Instr) (s : State) (hs : isThumb i = true → s.thumb = true) : Completing s (exec i s) := by
  cases i <;> unfold Machine.exec
  case andRegShift | eorRegShift | subRegShift | rsbRegShift | addRegShift | adcRegShift | sbcRegShift | rscRegShift
    | orrRegShift | movRegShift | bicRegShift | mvnRegShift | andImmShift | eorImmShift | subImmShift | rsbImmShift
    | addImmShift | adcImmShift | sbcImmShift | rscImmShift | orrImmShift | movImmShift | bicImmShift | mvnImmShift
    | andImm | eorImm | subImm | rsbImm | addImm | adcImm | sbcImm | rscImm | orrImm | movImm | bicImm | mvnImm =>
    exact onCondition (writeResult _ _ _)
  case tstRegShift | teqRegShift | cmpRegShift | cmnRegShift | tstImmShift | teqImmShift | cmpImmShift | cmnImmShift
    | tstImm | teqImm | cmpImm | cmnImm =>
    exact onCondition (testResult _)
  case mul | mla => exact onCondition (writeProduct _ _ _)
  case umull | umlal | smull | smlal => exact onCondition (writeLong _ _ _ _)
  case smlaxy | smlawy | qadd | qsub | qdadd | qdsub => exact onCondition (advance ((DataOnly.refl.setX _ _).stickyQ _))
  case smlalxy => exact onCondition (advance (DataOnly.refl.setPair _ _ _))
  case clz | smulwy | smulxy => exact onCondition (advance (DataOnly.refl.setX _ _))
  case mrs => exact onCondition (readPsr _ _)
  case msrReg | msrImm => exact onCondition (writePsr _ _ _)
  case swp => exact onCondition (swapWord _ _ _)
  case swpb => exact onCondition (swapByte _ _ _)
  case ldrtReg | ldrReg | ldrtImm | ldrImm => exact onCondition (loadWord _ _ _)
  case ldrbtReg | ldrbReg | ldrbtImm | ldrbImm => exact onCondition (loadByte _ _ _)
  case ldrsbReg | ldrsbImm => exact onCondition (loadSignedByte _ _)
  case ldrhReg | ldrshReg | ldrhImm | ldrshImm => exact onCondition (loadHalf _ _ _)
  case ldrdReg | ldrdImm => exact onCondition (loadDouble _ _)
  case strtReg | strReg | strtImm | strImm => exact onCondition (storeWord _ _ _)
  case strbtReg | strbReg | strbtImm | strbImm => exact onCondition (storeByte _ _ _)
  case strhReg | strhImm => exact onCondition (storeHalf _ _)
  case strdReg | strdImm => exact onCondition (storeDouble _ _)
  case ldm1 => exact onCondition (loadMultiple _ _)
  case ldm2 => exact onCondition (loadUser _ _)
  case ldm3 => exact onCondition (loadReturn _ _)
  case stm1 => exact onCondition (storeMultiple _ _)
  case stm2 => exact onCondition (storeUser _ _)
  case b => exact onCondition (branchWords .refl _)
  case bl => exact onCondition (branchWords (DataOnly.refl.setX _ _) _)
  case bx => exact onCondition (branchExchange .refl _)
  case blxReg => exact onCondition (branchExchange (DataOnly.refl.setX _ _) _)
  case swi | bkpt | undefArith | undefImmCompare | undefCompare | undefMedia | undefCoprocExt =>
    exact onCondition (takeException _)
  case cdp | mcr | mcrr => exact onCondition (sendToCp _ _ _)
  case mrc => exact onCondition (moveFromCp _ _ _)
  case mrrc => exact onCondition (offer _ _ _ fun _ => advance ((DataOnly.refl.setX _ _).setX _ _))
  case ldc => exact onCondition (loadCp _ _ _)
  case stc => exact onCondition (storeCp _ _ _)
  case pldImm | pldReg => exact always (advance .refl)
  case cdp2 | mcr2 => exact always (sendToCp _ _ _)
  case mrc2 => exact always (moveFromCp _ _ _)
  case ldc2 => exact always (loadCp _ _ _)
  case stc2 => exact always (storeCp _ _ _)
  case undefCoprocExtUncond | undefSwiUncond | undefBlockUncond | undefUncond | tUndefMisc | tUndefCond | tUndefBlx | tBkpt
    | tSwi =>
    exact always (takeException _)
  case tB1 => exact onCondition (branchHalves (hs rfl) _)
  case tB2 => exact always (branchHalves (hs rfl) _)
  case tBlSuffix =>
    refine always (branchTo (DataOnly.refl.setX _ _) fun a ha _ => ?_)
    obtain ⟨b, -, rfl⟩ := Option.map_eq_some_iff.mp ha
    rw [hs rfl]
    exact alignedTo_alignHalf b
  case tBlx1Suffix =>
    refine always (branchToSet (DataOnly.refl.setX _ _) false fun a ha _ => ?_)
    obtain ⟨b, -, rfl⟩ := Option.map_eq_some_iff.mp ha
    exact alignedTo_alignWord false b
  case blxImm h offset24 =>
    refine always (branchToSet (DataOnly.refl.setX _ _) true fun a ha hpc => ?_)
    exact alignedTo_branchTarget ha true (State.pc_even hpc) (by unfold wordOffset; simp only [if_true]; omega)
  case tBx => exact always (branchExchange .refl _)
  case tBlx2 => exact always (branchExchange (DataOnly.refl.setX _ _) _)
  case tAdd3 | tSub3 | tAdd1 | tSub1 | tLsl1 | tLsr1 | tAsr1 | tAdd2 | tSub2 | tLsl2 | tLsr2 | tAsr2 | tAdc | tSbc | tRor
    | tNeg | tMov1 | tAnd | tEor | tOrr | tMul | tBic | tMvn =>
    exact always (advance ((DataOnly.refl.setX _ _).withNZCV _ _ _ _))
  case tCmp1 | tCmp2 | tCmn | tCmp3 | tTst => exact always (advance (DataOnly.refl.withNZCV _ _ _ _))
  case tAdd4 | tMov3 => exact always (writeHigh (hs rfl) _ _)
  case tAdd5 | tAdd6 | tAdd7 | tSub4 | tBlPrefix => exact always (advance (DataOnly.refl.setX _ _))
  case tLdr1 | tLdr2 | tLdr3 | tLdr4 => exact always (thumbLoadWord _ _)
  case tLdrh1 | tLdrh2 | tLdrsh => exact always (thumbLoadHalf _ _ _)
  case tLdrb1 | tLdrb2 => exact always (loadByte _ _ _)
  case tLdrsb => exact always (loadSignedByte _ _)
  case tStr1 | tStr2 | tStr3 => exact always (thumbStoreWord _ _)
  case tStrh1 | tStrh2 => exact always (thumbStoreHalf _ _)
  case tStrb1 | tStrb2 => exact always (storeByte _ _ _)
  case tPush | tStmia => exact always (storeMultiple _ _)
  case tPop | tLdmia => exact always (loadMultiple _ _)

end Completing

/-! ## The step -/

/-- What a step can do: the inputs of the next boundary come in, then an instruction completes or an exception is taken. -/
theorem step_completes {s t : State} (h : step s = .next t) : Completes s.nextInputs t := by
  unfold step at h
  split at h
  · exact Completing.takeException _ t h
  · split at h
    · rename_i i hf
      exact Completing.exec i _ (State.thumb_of_fetch hf) t h
    · exact Completing.takeException _ t h
    all_goals cases h

/-- Every end of an instruction is well formed, if the instruction began so. -/
theorem Completes.wf {s t : State} (h : Completes s t) (hs : s.wf = true) : t.wf = true := by
  obtain ⟨hmode, hres, hspsrs, hpc, hformed⟩ := s.wf_iff.mp hs
  cases h with
  | goesOn hu p a hp ha =>
    refine (State.wf_iff _).mpr ⟨?_, hp.reserved.trans hres, hu.spsrs.clean hspsrs, ha hpc, hu.formed hformed⟩
    rwa [show State.mode _ = s.mode from congrArg Mode.ofBits? hp.m]
  | writesStatus p hpriv hm ht hr =>
    refine (State.wf_iff _).mpr ⟨hm hmode, hr.trans hres, hspsrs, ?_, hformed⟩
    rw [State.pcAligned_eq, State.setPc_thumb, State.thumb, State.setCpsr_cpsr, ht]
    exact alignedTo_nextPc hpc
  | writesSaved p q hq hr =>
    refine (State.wf_iff _).mpr ⟨by simpa using hmode, by simpa using hres,
      State.spsrsClean_setSpsr hspsrs (hr.trans (hspsrs.spsr? hq)), ?_, by simpa [State.Formed] using hformed⟩
    rw [State.pcAligned_eq]
    simpa using alignedTo_nextPc hpc
  | returns hu p v hp hm =>
    exact (State.wf_iff _).mpr ⟨hm, hspsrs.spsr? hp, hu.spsrs.clean hspsrs, alignedTo_return _ v, hu.formed hformed⟩
  | raises hu hc e =>
    exact takeException_wf e (hc ▸ hres) (hu.spsrs.clean hspsrs) (hu.formed hformed)

/-- Settles O8: every way a step can end keeps each part of well-formedness. -/
theorem everyStepKeepsStatesWellFormed : Obligations.EveryStepKeepsStatesWellFormed :=
  fun s _ hs h => (step_completes h).wf (s.wf_nextInputs.trans hs)

/-! ## User mode -/

/-- What a step in User mode may do: stay there, and change neither I nor F, nor an SPSR, nor a banked register. -/
def UserStays (s t : State) : Prop :=
  Psr.m t.cpsr = 0b10000 ∧ Psr.i t.cpsr = Psr.i s.cpsr ∧ Psr.f t.cpsr = Psr.f s.cpsr ∧ SameSpsrs s t ∧
    ∀ r : PhysReg, 15 ≤ r.index.val → t.reg r = s.reg r

/-- The entry of an exception from User mode: at its vector, in its mode, with the status saved, unless by Reset, and no
banked register changed but the link. -/
def UserLeft (s t : State) : Prop :=
  ∃ e offset m, (e, offset, m) ∈ vectorTable ∧ Psr.m t.cpsr = m ∧ Psr.t t.cpsr = false ∧ Psr.i t.cpsr = true ∧
    t.pc = (if s.settings.hivecs then 0xFFFF0000 else 0) + BitVec.ofNat 32 offset ∧
    (e ≠ .reset → t.spsr? = some s.cpsr) ∧
    ∀ r : PhysReg, 15 ≤ r.index.val → physReg (Mode.ofBits? m) 14 ≠ some r → t.reg r = s.reg r

/-- The model's vector offsets and modes are those of R541. -/
theorem mem_vectorTable (e : Exception) : (e, e.offset.toNat, e.mode.bits) ∈ vectorTable := by
  cases e <;> decide

theorem takeException_spsr {e : Exception} (he : e ≠ .reset) (s : State) : (takeException e s).spsr? = some s.cpsr := by
  rw [takeException_of_ne_reset he, State.spsr?_eq, enterException_mode, Option.bind_some, enterException_spsr]

/-- Every exception, Reset too, is entered by `enterException`, from a state with the same registers and parameters. -/
theorem takeException_eq (e : Exception) (s : State) :
    ∃ link saved u, takeException e s = enterException e link saved u ∧ u.regs = s.regs ∧ u.settings = s.settings := by
  by_cases he : e = .reset
  · subst he
    exact ⟨s.free, s.resetSaved, s.beforeReset, takeException_reset s, rfl, rfl⟩
  · exact ⟨e.link s, s.cpsr, s, takeException_of_ne_reset he s, rfl, rfl⟩

/-- An exception taken after work on data from User mode. -/
theorem userLeft_takeException {s u : State} (hu : DataOnly s u) (hm : Psr.m s.cpsr = 0b10000) (hc : u.cpsr = s.cpsr)
    (e : Exception) : UserLeft s (takeException e u) := by
  refine ⟨e, e.offset.toNat, e.mode.bits, mem_vectorTable e, ?_⟩
  have hsaved : e ≠ .reset → (takeException e u).spsr? = some s.cpsr := fun he => hc ▸ takeException_spsr he u
  obtain ⟨link, saved, u', heq, hregs, hset⟩ := takeException_eq e u
  rw [heq] at hsaved ⊢
  refine ⟨by simp, by simp, by simp, ?_, hsaved, fun r hr hlink => ?_⟩
  · simp [State.vectorBase, hset, hu.settings]
  · rw [enterException_reg e link saved u' (by simpa using hlink), State.reg, hregs]
    exact hu.banked hm r hr

/-- From User mode, every end of an instruction stays in User mode or is the entry of an exception: the writes of the control
bits and of an SPSR, and the returns, need a privileged mode. -/
theorem Completes.from_user {s t : State} (h : Completes s t) (hm : Psr.m s.cpsr = 0b10000) :
    UserStays s t ∨ UserLeft s t := by
  cases h with
  | goesOn hu p a hp ha => exact .inl ⟨hp.m.trans hm, hp.i, hp.f, hu.spsrs, hu.banked hm⟩
  | writesStatus p hpriv => simp [State.privileged, hm] at hpriv
  | writesSaved p q hq => simp [State.spsr?_of_user hm] at hq
  | returns hu p v hp => simp [State.spsr?_of_user hm] at hp
  | raises hu hc e => exact .inr (userLeft_takeException hu hm hc e)

/-- Settles O12: no way a step can end gives User mode more than its own. -/
theorem userModeIsLeftByExceptionsOnly : Obligations.UserModeIsLeftByExceptionsOnly := by
  intro s t hm h
  have hstep := (step_completes h).from_user (by simpa using hm)
  simpa [UserStays, UserLeft, SameSpsrs] using hstep

/-! ## Reset -/

/-- Settles O7: the state is a literal, and so are its fields; the parts of its well-formedness are decided one by one. -/
theorem resetLeavesSupervisorModeMasked : Obligations.ResetLeavesSupervisorModeMasked := by
  refine ⟨by decide, by decide, by decide, by decide, rfl, (State.wf_iff _).mpr ⟨by decide, by decide, ?_, by decide, ?_⟩⟩
  · exact (State.spsrsClean_iff _).mpr (by decide)
  · exact ⟨State.reset_mem_wf, rfl⟩

/-- The reset input comes before every other. -/
theorem State.pending_of_reset {s : State} (h : s.lines.reset = true) : s.pending = some .reset := if_pos h

/-- The entry of an exception leaves all but its mode's link register and SPSR, memory among it. -/
theorem enterException_entryFrame (e : Exception) (link saved : Word) (s : State) :
    EntryFrame e.mode.bits s (enterException e link saved s) := by
  refine ⟨fun r hr => enterException_reg e link saved s (by simpa using hr),
    fun mode hmode => enterException_spsrOf e link saved s fun he => hmode (he ▸ rfl), fun a => by simp, ?_⟩
  exact ⟨by simp, by simp, by simp, by simp⟩

/-- Settles O14: Reset is entered from `State.beforeReset`, which differs from the state in nothing that the frame names. -/
theorem resetEntrySetsModeAndMasks : Obligations.ResetEntrySetsModeAndMasks := by
  intro s
  refine ⟨fun h => by rw [step, State.pending_of_reset h], ?_⟩
  rw [takeException_reset]
  refine ⟨by simp; rfl, by simp, by simp [Exception.masksFiq], by simp, ?_, ?_, by simp [State.beforeReset],
    enterException_entryFrame .reset s.free s.resetSaved s.beforeReset⟩
  · simpa using s.sameControl_beforeReset.reserved
  · rw [enterException_pc]
    exact BitVec.add_zero _

/-! ## Register banks -/

/-- The number that names a physical register in every mode that can name it. -/
def PhysReg.number (r : PhysReg) : Reg :=
  BitVec.ofNat 4 <|
    if r.index.val < 15 then r.index.val else if r.index.val < 22 then r.index.val - 7 else 13 + r.index.val % 2

theorem number_of_physReg {m : Option Mode} {i : Reg} {r : PhysReg} (h : physReg m i = some r) : r.number = i := by
  have table : ∀ i : Reg, ∀ r ∈ physReg m i, r.number = i := by
    rcases m with _ | m
    · decide
    · cases m <;> decide
  exact table i r h

/-- Which modes have a register in common (R22): a table of modes and numbers, compared row by row. -/
theorem physReg_shared_iff (m m' : Mode) : ∀ i : Reg, i ≠ 15 →
    (physReg (some m) i = physReg (some m') i ↔
      i.toNat < 8 ∨ m = m' ∨ (i.toNat < 13 ∧ m ≠ .fiq ∧ m' ≠ .fiq) ∨
        ((m = .usr ∨ m = .sys) ∧ (m' = .usr ∨ m' = .sys))) := by
  cases m <;> cases m' <;> decide

/-- Two modes and numbers name the same register if the numbers are the same and the modes share it. -/
theorem physReg_eq_iff (m m' : Mode) {i : Reg} (j : Reg) (hi : i ≠ 15) :
    physReg (some m) i = physReg (some m') j ↔
      i = j ∧ (i.toNat < 8 ∨ m = m' ∨ (i.toNat < 13 ∧ m ≠ .fiq ∧ m' ≠ .fiq) ∨
        ((m = .usr ∨ m = .sys) ∧ (m' = .usr ∨ m' = .sys))) := by
  rw [← physReg_shared_iff m m' i hi]
  constructor
  · intro h
    obtain ⟨r, hr⟩ := exists_physReg (some m) hi
    obtain rfl : i = j := (number_of_physReg hr).symm.trans (number_of_physReg (h ▸ hr))
    exact ⟨rfl, h⟩
  · rintro ⟨rfl, h⟩
    exact h

/-- Settles O18: the table of banks, and the rules for reading a register after a write. -/
theorem registerBanksAsTabled : Obligations.RegisterBanksAsTabled :=
  ⟨fun m m' i j => ⟨physReg_eq_none (some m) i, physReg_eq_iff m m' j⟩,
    fun s _ _ v => ⟨fun hi => ⟨s.x_setX_same v hi, fun hj => s.x_setX_ne v hj⟩, s.x_fifteen⟩⟩

/-! ## Data processing -/

/-- The model's calculation of an opcode in a state. -/
def DpOp.aluIn (s : State) (rn : Reg) (op : DpOp) (f : DpForm) : Alu :=
  let a := s.x rn
  let b := f.operand s
  match op with
  | .and => aluAnd a b s.cpsr
  | .eor => aluEor a b s.cpsr
  | .sub => aluSub a b.value
  | .rsb => aluRsb a b.value
  | .add => aluAdd a b.value
  | .adc => aluAdc a b.value s.cpsr
  | .sbc => aluSbc a b.value s.cpsr
  | .rsc => aluRsc a b.value s.cpsr
  | .orr => aluOrr a b s.cpsr
  | .mov => aluMov b s.cpsr
  | .bic => aluBic a b s.cpsr
  | .mvn => aluMvn b s.cpsr

/-- Each of the 36 data-processing instructions writes its opcode's calculation. -/
theorem exec_dpInstr (op : DpOp) (f : DpForm) (c : Cond) (sf : Bool) (rn rd : Reg) (s : State) :
    exec (op.instr c sf rn rd f) s =
      onCondition (op.instr c sf rn rd f) c s (writeResult s sf rd (op.aluIn s rn f)) := by
  cases op <;> cases f <;> rfl

/-- The model's sum is the low word of the adder's. -/
theorem aluSum_result (a b : Word) (c : Bool) : (aluSum a b c).result = (Calc.sum a b c).result := by
  apply BitVec.eq_of_toNat_eq
  cases c <;> simp [aluSum, bit, Calc.result, wideSum]

/-- The model's difference is the low word of the adder's sum with the complement, the borrow being the carry's
complement. -/
theorem aluDiff_result (a b : Word) (c : Bool) : (aluDiff a b (!c)).result = (Calc.sum a (~~~b) c).result := by
  rw [← aluSum_result]
  cases c <;> simp only [aluDiff, aluSum, bit, Bool.not_true, Bool.not_false, if_true, Bool.false_eq_true, if_false] <;>
    bv_omega

/-- The model's result of each opcode is the one of R330 to R345. -/
theorem aluIn_result (op : DpOp) (s : State) (rn : Reg) (f : DpForm) :
    (op.aluIn s rn f).result = (op.calcIn s rn f).result := by
  cases op with
  | and | eor | orr | mov | bic | mvn => rfl
  | add | adc => exact aluSum_result _ _ _
  | sub => exact aluDiff_result _ _ true
  | rsb => exact aluDiff_result _ _ true
  | sbc | rsc => exact aluDiff_result _ _ _

/-- A plain write of the pc, its alignment in arithmetic. -/
theorem branchPlain_eq (s : State) (v : Word) :
    branchPlain s v = if v.toNat % 4 = 0 then .next { s with pc := v } else .refused .unpredictableTarget := by
  unfold branchPlain
  simp only [lowTwo_eq_zero]
  rfl

/-- Settles O26: without S, a result for the pc is a plain branch. -/
theorem dataProcessingBranchesThroughThePc : Obligations.DataProcessingBranchesThroughThePc := by
  intro op f c rn s hwf hc
  rw [exec_dpInstr, onCondition_of_holds hwf hc, ← aluIn_result, ← branchPlain_eq]
  rfl

/-! ## Frames -/

theorem SameBut.refl {regs : List (Option PhysReg)} {psr : Word} {touched : Word → Prop} {s : State} :
    SameBut regs psr touched s s :=
  ⟨fun _ _ => rfl, rfl, fun _ => rfl, fun _ _ => rfl, rfl, rfl, rfl, rfl, rfl⟩

section
variable {regs : List (Option PhysReg)} {psr : Word} {touched : Word → Prop} {s u : State}

/-- A write of a register that the frame names, in the mode it names it for. -/
theorem SameBut.setX (h : SameBut regs psr touched s u) (i : Reg) (v : Word) (hi : u.phys i ∈ regs) :
    SameBut regs psr touched s (u.setX i v) := by
  obtain ⟨hregs, hpsr, hspsrs, hbytes, hcp, hout⟩ := h
  refine ⟨fun r hr => (State.reg_setX v fun e => hr (e ▸ hi)).trans (hregs r hr), by simpa using hpsr,
    fun m => by simpa using hspsrs m, fun a ha => by simpa using hbytes a ha, by simpa using hcp, ?_⟩
  simpa [SameOutside] using hout

theorem SameBut.setCpsr (h : SameBut regs psr touched s u) {p : Word} (hp : p &&& ~~~psr = s.cpsr &&& ~~~psr) :
    SameBut regs psr touched s (u.setCpsr p) := by
  obtain ⟨hregs, -, hrest⟩ := h
  exact ⟨hregs, hp, hrest⟩

theorem SameBut.setPc (h : SameBut regs psr touched s u) (a : Word) : SameBut regs psr touched s (u.setPc a) := h

end

/-! ## Thumb branches -/

/-- A branch by an offset, its target in arithmetic. -/
theorem branchTo_branchTarget (s : State) (offset : Int) :
    branchTo s (s.branchTarget? offset) =
      if 0 ≤ (s.pc.toNat : Int) + (if s.thumb then 4 else 8) + offset ∧
          (s.pc.toNat : Int) + (if s.thumb then 4 else 8) + offset < 2 ^ 32 then
        .next { s with pc := BitVec.ofInt 32 ((s.pc.toNat : Int) + (if s.thumb then 4 else 8) + offset) }
      else .refused .addressWrap := by
  rw [State.branchTarget?, apply_ite (branchTo s)]
  rfl

/-- Settles O32: both branches go by their offset. -/
theorem thumbBranchesReachTheirTargets : Obligations.ThumbBranchesReachTheirTargets := by
  intro c imm8 imm11 s hc hs near far go
  have hgo : ∀ n : Int, branchTo s (s.branchTarget? (2 * n)) = go (s.pc.toNat + 4 + 2 * n) := fun n => by
    rw [branchTo_branchTarget, hs]
    rfl
  have hwf : (Instr.tB1 c imm8).wf = true := by simpa [Instr.wf] using hc
  constructor
  · intro hcond
    exact (onCondition_of_holds hwf hcond _).trans (hgo _)
  · exact (always_of_wf (i := .tB2 imm11) rfl _).trans (hgo _)

/-- The second half of a call, its target in arithmetic. -/
theorem branchTo_callTarget (s u : State) (offset : Nat) (align : Word → Word) :
    branchTo u ((s.callTarget? offset).map align) =
      if 0 ≤ s.callBase + offset ∧ s.callBase + offset < 2 ^ 32 then
        .next (u.setPc (align (BitVec.ofInt 32 (s.callBase + offset))))
      else .refused .addressWrap := by
  split <;> rename_i h
  · rw [State.callTarget?_some.mpr ⟨h, rfl⟩]
    rfl
  · cases ht : s.callTarget? offset with
    | none => rfl
    | some a => exact absurd (State.callTarget?_some.mp ht).1 h

/-- A link that is not at a distance the first half leaves counts as it stands. -/
theorem State.callBase_of_other_link {s : State}
    (h : ∀ before : BitVec 11, ¬s.x 14 = s.pc + 2 + BitVec.ofInt 32 (before.toInt * 2 ^ 12)) :
    s.callBase = (s.x 14).toNat := by
  refine if_neg ?_
  rintro ⟨hz, hlo, hhi⟩
  refine h (BitVec.ofInt 11 ((s.x 14 - (s.pc + 2)).toInt / 2 ^ 12)) ?_
  have hsum : s.x 14 = s.pc + 2 + (s.x 14 - (s.pc + 2)) := by bv_omega
  generalize s.x 14 - (s.pc + 2) = d at hz hlo hhi hsum ⊢
  have hlow : d.toNat % 2 ^ 12 = 0 := by simpa using congrArg BitVec.toNat hz
  have hdvd : d.toInt / 2 ^ 12 * 2 ^ 12 = d.toInt := by
    rw [BitVec.toInt_eq_toNat_cond]
    split <;> omega
  have hback : (BitVec.ofInt 11 (d.toInt / 2 ^ 12)).toInt = d.toInt / 2 ^ 12 := by
    rw [BitVec.toInt_ofInt, Int.bmod_eq_of_le] <;> omega
  rw [hback, hdvd, BitVec.ofInt_toInt]
  exact hsum

/-- The first half of a call leaves its half of the sum in the link register (R525). -/
theorem exec_tBlPrefix {s : State} (hs : s.thumb = true) (hroom : s.hasRoom) (offset11 : BitVec 11) :
    gives (exec (.tBlPrefix offset11) s) fun t =>
      t.x 14 = s.pc + 4 + BitVec.ofInt 32 (offset11.toInt * 2 ^ 12) ∧ t.pc = s.pc + 2 ∧
      SameBut [s.phys 14] 0 noBytes s t := by
  have hread : s.pcRead = s.pc + 4 := by rw [State.pcRead, hs]; rfl
  have hnext : s.nextPc = s.pc + 2 := by rw [State.nextPc, State.width, hs]; rfl
  have hoff : offset11.signExtend 32 <<< 12 = BitVec.ofInt 32 (offset11.toInt * 2 ^ 12) := by
    rw [BitVec.signExtend, BitVec.shiftLeft_eq_mul_twoPow, BitVec.ofInt_mul]
    rfl
  refine ⟨_, (always_of_wf (i := .tBlPrefix offset11) rfl _).trans
    (advance_of_room (by simpa [State.hasRoom] using hroom)), ?_, ?_, (SameBut.refl.setX 14 _ (by simp)).setPc _⟩
  · rw [State.x_setPc _ _ (by decide), State.x_setX_same s _ (by decide), hread, hoff]
  · rw [State.setPc_pc, State.nextPc_congr (s := s) (by simp) (by simp), hnext]

/-- The second half of BL (R526). -/
theorem exec_tBlSuffix (s : State) (offset11 : BitVec 11) {target : Int}
    (ht : s.callBase + 2 * (offset11.toNat : Int) = target) :
    if 0 ≤ target ∧ target < 2 ^ 32 then
      gives (exec (.tBlSuffix offset11) s) fun t =>
        t.x 14 = (s.pc + 2) ||| 1 ∧ t.pc = BitVec.ofInt 32 target &&& 0xFFFFFFFE ∧ SameBut [s.phys 14] 0 noBytes s t
    else exec (.tBlSuffix offset11) s = .refused .addressWrap := by
  have hexec := (always_of_wf (i := .tBlSuffix offset11) rfl _).trans
    (branchTo_callTarget s (s.setX 14 ((s.pc + 2) ||| 1)) (2 * offset11.toNat) alignHalf)
  rw [Nat.cast_mul, Nat.cast_ofNat, ht] at hexec
  split <;> rename_i h
  · rw [if_pos h] at hexec
    refine ⟨_, hexec, ?_, rfl, (SameBut.refl.setX 14 _ (by simp)).setPc _⟩
    rw [State.x_setPc _ _ (by decide), State.x_setX_same s _ (by decide)]
  · rwa [if_neg h] at hexec

/-- The second half of BLX, which leaves Thumb state (R527). -/
theorem exec_tBlx1Suffix (s : State) (high : BitVec 10) {target : Int}
    (ht : s.callBase + 4 * (high.toNat : Int) = target) :
    if 0 ≤ target ∧ target < 2 ^ 32 then
      gives (exec (.tBlx1Suffix high) s) fun t =>
        t.x 14 = (s.pc + 2) ||| 1 ∧ t.pc = BitVec.ofInt 32 target &&& 0xFFFFFFFC ∧ t.thumb = false ∧
        SameBut [s.phys 14] tBit noBytes s t
    else exec (.tBlx1Suffix high) s = .refused .addressWrap := by
  have hexec := (always_of_wf (i := .tBlx1Suffix high) rfl _).trans
    (branchTo_callTarget s ((s.setX 14 ((s.pc + 2) ||| 1)).setCpsr (Psr.withT s.cpsr false)) (4 * high.toNat) alignWord)
  rw [Nat.cast_mul, Nat.cast_ofNat, ht] at hexec
  split <;> rename_i h
  · rw [if_pos h] at hexec
    refine ⟨_, hexec, ?_, rfl, Psr.t_withT _ _,
      ((SameBut.refl.setX 14 _ (by simp)).setCpsr (Psr.withT_outside _ _)).setPc _⟩
    rw [State.x_setPc _ _ (by decide), State.x_setCpsr (by decide) (by simp), State.x_setX_same s _ (by decide)]
  · rwa [if_neg h] at hexec

/-- Settles O33: where the second half counts from is the exact sum after a first half, and the link after anything else. -/
theorem thumbCallHalvesLinkAndBranch : Obligations.ThumbCallHalvesLinkAndBranch := by
  intro offset11 high s hs bl blx leaves
  have hbl : ∀ target, s.callBase + 2 * offset11.toNat = target → bl target := fun _ => exec_tBlSuffix s offset11
  have hblx : ∀ target, s.callBase + 4 * high.toNat = target → blx target := fun _ => exec_tBlx1Suffix s high
  -- What the halves do is in `hbl` and `hblx`; left transparent, the integers in `bl` and `blx` are unfolded too far.
  clear_value bl blx
  refine ⟨fun hroom => exec_tBlPrefix hs hroom offset11, fun before hb => ?_, fun hno => ?_⟩
  · have hbase := State.callBase_of_prefix hb
    exact ⟨hbl _ (by rw [hbase]), hblx _ (by rw [hbase])⟩
  · have hbase := State.callBase_of_other_link hno
    exact ⟨hbl _ (by rw [hbase]), hblx _ (by rw [hbase])⟩

/-! ## MSR -/

/-- Both forms of MSR write their operand. -/
theorem exec_msr {c : Cond} {r : Bool} {mask rotate : BitVec 4} {imm8 : BitVec 8} {rm : Reg} {s : State} {i : Instr}
    {operand : Word}
    (h : (i = .msrImm c r mask 15 rotate imm8 ∧ operand = (imm8.setWidth 32).rotateRight (2 * rotate.toNat)) ∨
      (i = .msrReg c r mask 15 0 0 rm ∧ rm ≠ 15 ∧ operand = s.x rm)) :
    exec i s = onCondition i c s (writePsr s r mask operand) := by
  rcases h with ⟨rfl, rfl⟩ | ⟨rfl, -, rfl⟩ <;> rfl

theorem privileged_eq_false_iff (s : State) : s.privileged = false ↔ Psr.m s.cpsr = 0b10000 := by
  simp [State.privileged]

theorem and_stateMask_eq_zero_iff (p : Word) : p &&& stateMask = 0 ↔ p.getLsbD 5 = false := by
  rw [show stateMask = BitVec.twoPow 32 5 from rfl, BitVec.and_twoPow]
  cases p.getLsbD 5 <;> decide

theorem writePsr_reserved {s : State} {r : Bool} {mask : BitVec 4} {operand : Word} (h : operand &&& unallocMask ≠ 0) :
    writePsr s r mask operand = .refused .reservedPsrBits := if_pos h

section
variable {s : State} {mask : BitVec 4} {operand : Word}

theorem writePsr_user (h : operand &&& unallocMask = 0) (hp : s.privileged = false) :
    writePsr s false mask operand = advance (s.setCpsr (merge s.cpsr operand (byteMask mask &&& userMask))) := by
  simp [writePsr, h, hp]

/-- MSR to the CPSR in a privileged mode: T in the operand, then the mode in it, may be refused. -/
theorem writePsr_privileged (h : operand &&& unallocMask = 0) (hp : s.privileged = true) :
    writePsr s false mask operand =
      if operand.getLsbD 5 = true then .refused .msrSetsT
      else if mask.getLsbD 0 = true ∧ (Mode.ofBits? (Psr.m operand)).isSome = false then .refused .illegalMode
      else advance (s.setCpsr (merge s.cpsr operand (byteMask mask &&& (userMask ||| privMask)))) := by
  have ht : operand &&& stateMask ≠ 0 ↔ operand.getLsbD 5 = true := by
    rw [ne_eq, and_stateMask_eq_zero_iff, Bool.not_eq_false]
  simp only [writePsr, h, hp, ht, illegalModeWrite, Bool.and_eq_true, Option.isNone_iff_eq_none, Option.isSome_eq_false_iff,
    ne_eq, not_true_eq_false, if_true, Bool.false_eq_true, if_false]

theorem writePsr_saved (h : operand &&& unallocMask = 0) {p : Word} (hp : s.spsr? = some p) :
    writePsr s true mask operand =
      advance (s.setSpsr (merge p operand (byteMask mask &&& (userMask ||| privMask ||| stateMask)))) := by
  simp [writePsr, h, hp]

theorem writePsr_noSpsr (h : operand &&& unallocMask = 0) (hp : s.spsr? = none) :
    writePsr s true mask operand = .refused .noSpsr := by
  simp [writePsr, h, hp]

/-- In ARM state, a write of the CPSR that keeps T goes on to the next word. -/
theorem advance_setCpsr (hs : s.armReady) {p : Word} (ht : Psr.t p = Psr.t s.cpsr) :
    advance (s.setCpsr p) = .next { s with cpsr := p, pc := s.pc + 4 } := by
  obtain ⟨hthumb, hroom⟩ := hs
  have hw : (s.setCpsr p).width = s.width := by rw [State.width, State.width, State.thumb, State.setCpsr_cpsr, ht]; rfl
  rw [advance_of_room (by rwa [State.hasRoom, hw]), State.nextPc, hw, State.width, hthumb]
  rfl

/-- The bits of a status that MSR gives: the selected ones of a set from the operand, the others as before. -/
theorem msr_gives (hs : s.armReady) {r : Result} {m : Word} {bits : List Nat}
    (hr : r = advance (s.setCpsr (merge s.cpsr operand (byteMask mask &&& m))))
    (ht : Psr.t (merge s.cpsr operand (byteMask mask &&& m)) = Psr.t s.cpsr)
    (hm : ∀ k, k < 32 → (m.getLsbD k = true ↔ k ∈ bits)) :
    gives r fun t =>
      (∀ k, k < 32 → t.cpsr.getLsbD k =
        if k ∈ bits ∧ mask.getLsbD (k / 8) = true then operand.getLsbD k else s.cpsr.getLsbD k) ∧
      t = { s with cpsr := t.cpsr, pc := s.pc + 4 } := by
  refine ⟨_, hr.trans (advance_setCpsr hs ht), fun k hk => ?_, rfl⟩
  rw [getLsbD_merge_byteMask _ _ _ _ k hk]
  simp only [hm k hk]

end

/-- Settles O39: the cases are those of the write, the bits written those of its mask. -/
theorem msrWritesTheCpsr : Obligations.MsrWritesTheCpsr := by
  intro c mask rotate imm8 rm s i operand hi hwf hc hs selected writes reserved
  have hexec : exec i s = writePsr s false mask operand := (exec_msr hi).trans (onCondition_of_holds hwf hc _)
  have hpriv : Psr.m s.cpsr ≠ 0b10000 → s.privileged = true := fun hm =>
    Bool.eq_true_of_not_eq_false fun h => hm ((privileged_eq_false_iff s).mp h)
  have hclear : ¬reserved → operand &&& unallocMask = 0 := not_not.mp
  refine ⟨fun h hm => ?_, fun h hm ht hmode => ?_, fun h => ?_, fun h hm ht => ?_, fun h hm ht hsel hmode => ?_⟩
  · refine msr_gives hs (hexec.trans (writePsr_user (hclear h) ((privileged_eq_false_iff s).mpr hm)))
      (getLsbD_merge_userMask _ _ _ 5 (by decide)) (by decide)
  · have hlegal : ¬(mask.getLsbD 0 = true ∧ (Mode.ofBits? (Psr.m operand)).isSome = false) := fun ⟨hsel, hno⟩ =>
      Bool.noConfusion (hno.symm.trans (hmode hsel))
    refine msr_gives hs ?_ (t_merge_statusMask _ _ _) (by decide)
    rw [hexec, writePsr_privileged (hclear h) (hpriv hm), if_neg (Bool.eq_false_iff.mp ht), if_neg hlegal]
  · exact hexec.trans (writePsr_reserved h)
  · rw [hexec, writePsr_privileged (hclear h) (hpriv hm), if_pos ht]
  · rw [hexec, writePsr_privileged (hclear h) (hpriv hm), if_neg (Bool.eq_false_iff.mp ht), if_pos ⟨hsel, hmode⟩]

/-- Settles O40: the SPSR of the current mode alone is written, bit by bit as its mask says. -/
theorem msrWritesTheSpsr : Obligations.MsrWritesTheSpsr := by
  intro c mask rotate imm8 rm s i operand hi hwf hc hs reserved
  have hexec : exec i s = writePsr s true mask operand := (exec_msr hi).trans (onCondition_of_holds hwf hc _)
  have hclear : ¬reserved → operand &&& unallocMask = 0 := not_not.mp
  refine ⟨fun h => hexec.trans (writePsr_reserved h), fun p m h hp hm => ?_,
    fun h hp => hexec.trans (writePsr_noSpsr (hclear h) hp)⟩
  have hnext : s.nextPc = s.pc + 4 := by rw [State.nextPc, State.width, hs.1]; rfl
  refine ⟨_, hexec.trans ((writePsr_saved (hclear h) hp).trans
    (advance_of_room (by simpa [State.hasRoom] using hs.2))),
    ⟨_, (State.setPc_spsr _ _).trans (State.spsr?_setSpsr hp), fun k hk => ?_⟩, ?_, ?_, fun m' hm' => ?_, ?_⟩
  · rw [getLsbD_merge_byteMask _ _ _ _ k hk, getLsbD_savedMask k hk]
    simp only [decide_eq_true_eq]
  · rw [State.setPc_pc, State.nextPc_congr (s := s) (by simp) (by simp), hnext]
  · simp
  · exact State.spsrOf_setSpsr hm hm'
  · exact ⟨fun r => by simp, fun a => by simp, by simp, by simp, by simp, by simp, by simp⟩

end Sys2Proof.Machine

/-! SUPPORT AND PROOFS of the statements about memory. First the layer: the record of stores, the fetch, what memory holds after a
store, the frame of a transfer, the entry of an exception. Then, for each family of loads and stores, the shared operation that
its instructions run, and when that operation ends in a Data Abort (R70, R81, R556). -/

namespace Sys2Proof.Machine

/-! ## The record of stores -/

/-- Every byte in which `t` differs from `s` is recorded as stored to, and the record has only grown. -/
structure StoresRecorded (s t : State) : Prop where
  changed : ∀ a, t.byte a ≠ s.byte a → a.toNat ∈ t.stored
  grows : ∀ n, n ∈ s.stored → n ∈ t.stored

/-- A store of a byte records it, and no other update touches memory or the record. -/
theorem Updates.storesRecorded {s t : State} (h : Updates s t) : StoresRecorded s t := by
  induction h with
  | refl => exact ⟨fun a ha => absurd rfl ha, fun _ hn => hn⟩
  | storeByte _ a b ih =>
    refine ⟨fun k hk => (mem_insertAddress _ _ _).mpr ?_,
      fun n hn => (mem_insertAddress _ _ _).mpr (.inr (ih.grows n hn))⟩
    by_cases hka : k = a
    · exact .inl (hka ▸ rfl)
    · exact .inr (ih.changed k (by rwa [State.byte_storeByte_ne _ b hka] at hk))
  | setSpsr _ p ih => exact ⟨by simpa using ih.changed, by simpa using ih.grows⟩
  | setReg _ _ _ ih | setCpsr _ _ ih | setPc _ _ ih | cpTake _ _ _ _ ih | resetCps _ ih | useFree _ _ ih =>
    exact ⟨ih.changed, ih.grows⟩

/-! ## Fetching -/

/-- The addresses fetched are those of the bytes at the pc. -/
theorem State.fetchAddresses_eq (s : State) :
    s.fetchAddresses = (List.range s.width).map fun k => s.pc + BitVec.ofNat 32 k := by
  unfold State.fetchAddresses State.width
  cases s.thumb
  · exact congrArg (· :: [s.pc + 1, s.pc + 2, s.pc + 3]) (BitVec.add_zero s.pc).symm
  · exact congrArg (· :: [s.pc + 1]) (BitVec.add_zero s.pc).symm

theorem State.mem_fetchAddresses {s : State} {a : Word} : a ∈ s.fetchAddresses ↔ bytesAt s.pc s.width a := by
  simp only [State.fetchAddresses_eq, List.mem_map, List.mem_range, bytesAt, eq_comm]

/-- Bytes that all have a value are read together. -/
theorem State.bytes?_map {s : State} {f : Nat → Word} {g : Nat → Byte} {l : List Nat}
    (h : ∀ k, k ∈ l → s.byte (f k) = some (g k)) : s.bytes? (l.map f) = some (l.map g) := by
  induction l with
  | nil => rfl
  | cons k l ih =>
    have hk := h k (by simp)
    have hl := ih fun j hj => h j (by simp [hj])
    simp [State.bytes?, hk, hl]

/-- The bytes at the pc, if they hold a number as wide as an instruction. -/
theorem State.bytes?_fetchAddresses {s : State} {v : Nat} (h : s.holds s.pc s.width v) :
    s.bytes? s.fetchAddresses = some ((List.range s.width).map (byteOf s.settings.bigend s.width v)) := by
  rw [State.fetchAddresses_eq]
  exact State.bytes?_map fun k hk => h.2 k (List.mem_range.mp hk)

/-- In ARM state four bytes that hold a word's number decode as that word (R65). -/
theorem State.decodeBytes?_arm {s : State} (hs : s.thumb = false) (w : Word) :
    s.decodeBytes? ((List.range 4).map (byteOf s.settings.bigend 4 w.toNat)) = some (decodeArm w) := by
  have hw := joinWord_byteOf s.settings.bigend w.toNat
  rw [BitVec.ofNat_toNat, BitVec.setWidth_eq] at hw
  simp [State.decodeBytes?, decodeBytes, hs, List.range_succ, hw]

/-- In Thumb state two bytes that hold a halfword's number decode as that halfword (R460). -/
theorem State.decodeBytes?_thumb {s : State} (hs : s.thumb = true) (h : Half) :
    s.decodeBytes? ((List.range 2).map (byteOf s.settings.bigend 2 h.toNat)) = some (decodeThumb h) := by
  have hh := joinHalf_byteOf s.settings.bigend h.toNat
  rw [BitVec.ofNat_toNat, BitVec.setWidth_eq] at hh
  simp [State.decodeBytes?, decodeBytes, hs, List.range_succ, hh]

/-- The inputs of a boundary are no matter to its fetch. -/
theorem State.fetch_nextInputs (s : State) : s.nextInputs.fetch = s.fetch := by
  have hbytes : s.nextInputs.bytes? = s.bytes? := by
    funext l
    induction l with
    | nil => rfl
    | cons a l ih => simp only [State.bytes?, ih, State.nextInputs_byte]
  have haddresses : s.nextInputs.fetchAddresses = s.fetchAddresses := by simp [State.fetchAddresses_eq]
  have hdecode : s.nextInputs.decodeBytes? = s.decodeBytes? := by
    funext bs
    simp [State.decodeBytes?]
  simp [State.fetch, State.pcAligned_eq, hbytes, haddresses, hdecode]

section
variable {s : State} (hpc : s.pcAligned = true) (hadmit : s.settings.aborts .fetch s.privileged s.width s.pc = false)
include hpc hadmit

theorem State.fetch_of_stored (h : ∃ a, bytesAt s.pc s.width a ∧ a.toNat ∈ s.stored) : s.fetch = .selfModified := by
  obtain ⟨a, ha, hstored⟩ := h
  have hany : (s.fetchAddresses.any fun a => s.stored.contains a.toNat) = true :=
    List.any_eq_true.mpr ⟨a, State.mem_fetchAddresses.mpr ha, by simpa using hstored⟩
  simp only [State.fetch, hpc, hadmit, hany, Bool.not_true, Bool.false_eq_true, if_false, if_true]

theorem State.fetch_of_bytes (h : ∀ a, bytesAt s.pc s.width a → a.toNat ∉ s.stored) {bs : List Byte} {i : Instr}
    (hbytes : s.bytes? s.fetchAddresses = some bs) (hdecode : s.decodeBytes? bs = some i) : s.fetch = .instr i := by
  have hany : (s.fetchAddresses.any fun a => s.stored.contains a.toNat) = false :=
    List.any_eq_false.mpr fun a ha => by simpa using h a (State.mem_fetchAddresses.mp ha)
  simp only [State.fetch, hpc, hadmit, hany, hbytes, hdecode, Option.bind_some, Bool.not_true,
    Bool.false_eq_true, if_false]

end

/-- Inputs that ask for nothing, or are masked, leave nothing pending. -/
theorem State.pending_eq_none {s : State} (hreset : s.lines.reset = false)
    (hfiq : s.lines.fiq = false ∨ Psr.f s.cpsr = true) (hirq : s.lines.irq = false ∨ Psr.i s.cpsr = true) :
    s.pending = none := by
  have hf : (s.lines.fiq && !Psr.f s.cpsr) = false := by rcases hfiq with h | h <;> simp [h]
  have hi : (s.lines.irq && !Psr.i s.cpsr) = false := by rcases hirq with h | h <;> simp [h]
  simp [State.pending, hreset, hf, hi]

/-- Settles O11: what an instruction or an exception's entry stores it records, and the fetch looks at the record. -/
theorem storedBytesAreNotExecuted : Obligations.StoredBytesAreNotExecuted := by
  refine ⟨fun s t h => ?_, fun s hpending hpc hadmit hstored => ?_⟩
  · have hrec := (step_updates h).storesRecorded
    exact ⟨by simpa using hrec.changed, by simpa using hrec.grows⟩
  · rw [step, hpending, State.fetch_nextInputs, State.fetch_of_stored hpc hadmit hstored]

/-- A step with nothing pending is the meaning of the instruction fetched. -/
theorem step_of_fetch {s : State} {i : Instr} (hpending : s.pending = none) (h : s.fetch = .instr i) :
    step s = exec i s.nextInputs := by
  rw [step, hpending, State.fetch_nextInputs, h]

/-- Settles O10: nothing is pending, and the bytes at the pc decode in the instruction set of the state. -/
theorem stepRunsTheDecodedInstruction : Obligations.StepRunsTheDecodedInstruction := by
  intro s e n v hreset hfiq hirq he hpc hholds hadmit hstored
  have hinstr : n = s.width ∧ s.decodeBytes? ((List.range n).map (byteOf s.settings.bigend n v)) = some (decode e) := by
    cases e with
    | arm w =>
      obtain ⟨hs, rfl, rfl⟩ := he
      exact ⟨by rw [State.width, hs]; rfl, State.decodeBytes?_arm hs w⟩
    | thumb h =>
      obtain ⟨hs, rfl, rfl⟩ := he
      exact ⟨by rw [State.width, hs]; rfl, State.decodeBytes?_thumb hs h⟩
  clear he
  obtain ⟨rfl, hdecode⟩ := hinstr
  rw [← State.nextInputs_eq]
  exact step_of_fetch (State.pending_eq_none hreset hfiq hirq)
    (State.fetch_of_bytes hpc hadmit hstored (State.bytes?_fetchAddresses hholds) hdecode)

/-! ## What memory holds -/

/-- The bytes of a word in address order, by where they stand in the word. -/
theorem byteOf_word (bigend : Bool) (v : Word) (k : Nat) :
    byteOf bigend 4 v.toNat k = v.extractLsb' (8 * if bigend then 3 - k else k) 8 :=
  (extract_eq_ofNat v _).symm

/-- Two bytes of a word that follow each other, joined in the word's byte order, are a field of the word. -/
theorem joinHalf_byteOf_word (bigend : Bool) (v : Word) {k : Nat} (hk : k < 3) :
    joinHalf bigend (byteOf bigend 4 v.toNat k) (byteOf bigend 4 v.toNat (k + 1)) =
      v.extractLsb' (8 * if bigend then 2 - k else k) 16 := by
  rw [byteOf_word, byteOf_word]
  cases bigend
  · exact BitVec.extractLsb'_append_extractLsb'_eq_extractLsb' (by simp only [Bool.false_eq_true, if_false]; omega)
  · simp only [joinHalf, if_true, show 3 - (k + 1) = 2 - k by omega]
    exact BitVec.extractLsb'_append_extractLsb'_eq_extractLsb' (by omega)

/-- Where a word is held, each two of its bytes that follow each other are read as a halfword. -/
theorem State.half_of_holds_word {s : State} {a v : Word} (h : s.holds a 4 v.toNat) {k : Nat} (hk : k < 3) :
    s.half (a + BitVec.ofNat 32 k) = some (v.extractLsb' (8 * if s.settings.bigend then 2 - k else k) 16) := by
  have hnext : a + BitVec.ofNat 32 k + 1 = a + BitVec.ofNat 32 (k + 1) := address_add a k 1
  rw [← joinHalf_byteOf_word s.settings.bigend v hk, State.half, hnext, h.2 k (by omega), h.2 (k + 1) (by omega)]
  rfl

/-- Settles O19: memory holds the word stored, and every narrower read takes a field of it. -/
theorem mixedWidthAccessesAgree : Obligations.MixedWidthAccessesAgree := by
  intro s t privileged a v _ h
  obtain ⟨-, ht⟩ := State.writeWord_some.mp h
  have hholds : t.holds a 4 v.toNat := ht ▸ s.holds_storeWord a v
  have hend : t.settings.bigend = s.settings.bigend := by rw [ht, State.storeBytes_settings]
  have hword : t.word a = some v := by simpa using State.word_of_holds hholds
  have hbyte : ∀ k, k < 4 → t.byte (a + BitVec.ofNat 32 k) =
      some (v.extractLsb' (8 * if s.settings.bigend then 3 - k else k) 8) := fun k hk => by
    rw [← hend, ← byteOf_word]
    exact hholds.2 k hk
  have hhalf : ∀ k, k < 3 → t.half (a + BitVec.ofNat 32 k) =
      some (v.extractLsb' (8 * if s.settings.bigend then 2 - k else k) 16) := fun k hk =>
    hend ▸ State.half_of_holds_word hholds hk
  have hbyte0 := hbyte 0 (by decide)
  have hhalf0 := hhalf 0 (by decide)
  rw [BitVec.add_zero] at hbyte0 hhalf0
  refine ⟨hword, hholds, fun hs => ?_, fun hs => ?_, fun b hb => ?_⟩
  · rw [hs] at hbyte hhalf hbyte0 hhalf0
    exact ⟨hbyte0, hbyte 3 (by decide), hhalf0, hhalf 2 (by decide)⟩
  · rw [hs] at hbyte hhalf hbyte0 hhalf0
    exact ⟨hbyte0, hbyte 3 (by decide), hhalf0, hhalf 2 (by decide)⟩
  · rw [ht]
    exact State.byte_storeBytes_outside (by simpa using hb)

/-! ## Frames of transfers -/

section
variable {regs : List (Option PhysReg)} {psr : Word} {touched : Word → Prop} {s u : State}

/-- A store of bytes that the frame lets be touched. -/
theorem SameBut.storeBytes (h : SameBut regs psr touched s u) (a : Word) (bs : List Byte)
    (hb : ∀ b, bytesAt a bs.length b → touched b) : SameBut regs psr touched s (u.storeBytes a bs) := by
  obtain ⟨hregs, hpsr, hspsrs, hbytes, hcp, hout⟩ := h
  refine ⟨fun r hr => by simpa using hregs r hr, by simpa using hpsr, fun m => by simpa using hspsrs m, fun b hb' => ?_,
    by simpa using hcp, by simpa [SameOutside] using hout⟩
  exact (State.byte_storeBytes_outside fun hin => hb' (hb b hin)).trans (hbytes b hb')

/-- A write of a base that the frame names. -/
theorem SameBut.writeBack (h : SameBut regs psr touched s u) {w : Option (Reg × Word)}
    (hw : ∀ rn v, w = some (rn, v) → u.phys rn ∈ regs) : SameBut regs psr touched s (u.writeBack w) := by
  cases w with
  | none => exact h
  | some w => exact h.setX w.1 w.2 (hw w.1 w.2 rfl)

end

/-- A frame that names the base register. -/
theorem State.mem_basePhys {s : State} {m : Address} {rn : Reg} {v : Word} (h : m.writeBack = some (rn, v)) :
    s.phys rn ∈ s.basePhys m := by
  simp [State.basePhys, h]

@[simp] theorem State.phys_writeBack (s : State) (w : Option (Reg × Word)) (i : Reg) :
    (s.writeBack w).phys i = s.phys i := by
  simp [State.phys]

@[simp] theorem State.phys_storeBytes (s : State) (a : Word) (bs : List Byte) (i : Reg) :
    (s.storeBytes a bs).phys i = s.phys i := by
  simp [State.phys]

theorem State.x_writeBack {s : State} {w : Option (Reg × Word)} {rn : Reg} {v : Word} (h : w = some (rn, v))
    (hrn : rn ≠ 15) : (s.writeBack w).x rn = v := by
  subst h
  exact s.x_setX_same v hrn

/-- In ARM state, what leaves the pc and T alone goes on to the next word. -/
theorem advance_of_armReady {s u : State} (hs : s.armReady) (hpc : u.pc = s.pc) (ht : u.thumb = s.thumb) :
    advance u = .next (u.setPc (s.pc + 4)) := by
  obtain ⟨hthumb, hroom⟩ := hs
  have hw : u.width = s.width := by rw [State.width, State.width, ht]
  have hnext : s.nextPc = s.pc + 4 := by rw [State.nextPc, State.width, hthumb]; rfl
  rw [advance_of_room (by rwa [State.hasRoom, hpc, hw]), State.nextPc_congr hpc ht, hnext]

/-! ## Reads and writes that the memory system admits -/

section
variable {s : State} {privileged : Bool} {a : Word}

theorem State.readByte_of_holds {v : Nat} (hadmit : s.settings.aborts .read privileged 1 a = false) (h : s.holds a 1 v) :
    s.readByte privileged a = .value (BitVec.ofNat 8 v) :=
  State.access_value.mpr ⟨hadmit, State.byte_of_holds h⟩

theorem State.readWord_of_holds {v : Nat} (hadmit : s.settings.aborts .read privileged 4 a = false) (h : s.holds a 4 v) :
    s.readWord privileged a = .value (BitVec.ofNat 32 v) :=
  State.access_value.mpr ⟨hadmit, State.word_of_holds h⟩

theorem State.writeByte_of_admits (hadmit : s.settings.aborts .write privileged 1 a = false) (v : Byte) :
    s.writeByte privileged a v = some (s.storeBytes a [v]) :=
  State.writeBytes_some.mpr ⟨hadmit, rfl⟩

theorem State.writeWord_of_admits (hadmit : s.settings.aborts .write privileged 4 a = false) (v : Word) :
    s.writeWord privileged a v = some (s.storeBytes a (splitWord s.settings.bigend v)) :=
  State.writeWord_some.mpr ⟨hadmit, rfl⟩

end

/-! ## The alignment check of words -/

/-- An aligned word, or any where nothing is checked, passes the alignment check (R68, R70). -/
theorem State.passes_alignment {s : State} {a : Word} (h : a.toNat % 4 = 0 ∨ s.settings.alignFault = false) :
    ¬(lowTwo a ≠ 0 ∧ s.settings.alignFault = true) := by
  rw [ne_eq, lowTwo_eq_zero]
  rintro ⟨h0, hal⟩
  exact h.elim h0 fun e => Bool.noConfusion (e.symm.trans hal)

/-- A misaligned word fails the alignment check. -/
theorem State.fails_alignment {s : State} {a : Word} (h : a.toNat % 4 ≠ 0) (hal : s.settings.alignFault = true) :
    lowTwo a ≠ 0 ∧ s.settings.alignFault = true :=
  ⟨mt (lowTwo_eq_zero a).mp h, hal⟩

/-! ## SWP and SWPB -/

/-- A word swap that passes the alignment check. -/
theorem swapWord_of_aligned {s : State} {rn rd rm : Reg}
    (hal : (s.x rn).toNat % 4 = 0 ∨ s.settings.alignFault = false) :
    swapWord s rn rd rm =
      (s.readWord s.privileged (alignWord (s.x rn))).andThen s none fun w =>
        finishSwap (s.writeWord s.privileged (alignWord (s.x rn)) (s.x rm)) s rd (ror w (8 * (lowTwo (s.x rn)).toNat)) :=
  if_neg (State.passes_alignment hal)

/-- A word swap that nothing keeps from running. -/
theorem swapWord_of_holds {s : State} {rn rd rm : Reg} {v : Nat}
    (hal : (s.x rn).toNat % 4 = 0 ∨ s.settings.alignFault = false)
    (hread : s.settings.aborts .read s.privileged 4 (alignWord (s.x rn)) = false)
    (hwrite : s.settings.aborts .write s.privileged 4 (alignWord (s.x rn)) = false)
    (h : s.holds (alignWord (s.x rn)) 4 v) :
    swapWord s rn rd rm =
      advance ((s.storeBytes (alignWord (s.x rn)) (splitWord s.settings.bigend (s.x rm))).setX rd
        (ror (BitVec.ofNat 32 v) (8 * (lowTwo (s.x rn)).toNat))) := by
  rw [swapWord_of_aligned hal, State.readWord_of_holds hread h, State.writeWord_of_admits hwrite]
  rfl

/-- A byte swap that nothing keeps from running. -/
theorem swapByte_of_holds {s : State} {rn rd rm : Reg} {v : Nat}
    (hread : s.settings.aborts .read s.privileged 1 (s.x rn) = false)
    (hwrite : s.settings.aborts .write s.privileged 1 (s.x rn) = false) (h : s.holds (s.x rn) 1 v) :
    swapByte s rn rd rm =
      advance ((s.storeBytes (s.x rn) [(s.x rm).setWidth 8]).setX rd ((BitVec.ofNat 8 v).setWidth 32)) := by
  simp only [swapByte, State.readByte_of_holds hread h, State.writeByte_of_admits hwrite]
  rfl

/-- The end of a swap: the store, then the register, then the next instruction. -/
theorem swap_gives {s : State} (hs : s.armReady) {a : Word} {bs : List Byte} {rd : Reg} (hrd : rd ≠ 15) (v : Word) :
    gives (advance ((s.storeBytes a bs).setX rd v)) fun t =>
      t.x rd = v ∧ (∀ n w, (s.storeBytes a bs).holds a n w → t.holds a n w) ∧ t.pc = s.pc + 4 ∧
      SameBut [s.phys rd] 0 (bytesAt a bs.length) s t := by
  refine ⟨_, advance_of_armReady hs (by simp) (by simp), ?_, fun n w h => ?_, rfl, ?_⟩
  · rw [State.x_setPc _ _ hrd, State.x_setX_same _ v hrd]
  · exact (State.holds_congr (by simp) (by simp)).mpr h
  · exact ((SameBut.refl.storeBytes a bs fun _ => id).setX rd v (by simp)).setPc _

/-- Settles O41: both swaps end in a store at the address read and a write of the register. -/
theorem swapExchangesRegisterAndMemory : Obligations.SwapExchangesRegisterAndMemory := by
  intro c rn rd rm s v hc hs hwf a aligned admits
  have hrd : rd ≠ 15 := by
    simp only [Instr.wf, notPc, Bool.and_eq_true, bne_iff_ne] at hwf
    tauto
  constructor
  · intro hal ⟨hread, hwrite⟩ hholds
    have hrun : exec (.swp c rn rd 0 rm) s = _ := (onCondition_of_holds hwf hc _).trans
      (swapWord_of_holds (rm := rm) (rd := rd) hal hread hwrite hholds)
    obtain ⟨t, ht, hx, hheld, hpc, hframe⟩ := swap_gives hs (a := aligned)
      (bs := splitWord s.settings.bigend (s.x rm)) hrd (ror (BitVec.ofNat 32 v) (8 * (lowTwo a).toNat))
    rw [splitWord_length] at hframe
    refine ⟨t, hrun.trans ht, ?_, hheld 4 _ (s.holds_storeWord aligned (s.x rm)), hpc, hframe⟩
    rw [hx, lowTwo_toNat]
    rfl
  · intro ⟨hread, hwrite⟩ hholds
    have hrun : exec (.swpb c rn rd 0 rm) s = _ := (onCondition_of_holds (i := .swpb c rn rd 0 rm) hwf hc _).trans
      (swapByte_of_holds (rm := rm) (rd := rd) hread hwrite hholds)
    obtain ⟨t, ht, hx, hheld, hpc, hframe⟩ := swap_gives hs (a := a) (bs := [(s.x rm).setWidth 8]) hrd
      ((BitVec.ofNat 8 v).setWidth 32)
    refine ⟨t, hrun.trans ht, ?_, ?_, hpc, hframe⟩
    · have hv : v < 256 := hholds.1
      rw [hx, BitVec.toNat_setWidth, BitVec.toNat_ofNat]
      omega
    · simpa using hheld 1 _ (s.holds_storeOneByte a ((s.x rm).setWidth 8))

/-! ## Word loads -/

theorem LoadsWord.exec_eq {s : State} {i : Instr} {c : Cond} {privileged : Bool} {m : Address} {rd : Reg}
    (h : LoadsWord s i c privileged m rd) (hwf : i.wf = true) (hc : Cond.holds c s.cpsr = true) :
    exec i s = loadWord s privileged m rd := by
  cases h <;> exact onCondition_of_holds hwf hc _

/-- A base that an addressing mode writes is neither the pc nor the register transferred (R291, R371). -/
theorem baseOk_writeBack {p u w : Bool} {rn rd : Reg} {base offset : Word} (h : baseOk p w rn rd = true)
    {r : Reg} {v : Word} (hr : (indexed p u w rn base offset).writeBack = some (r, v)) : r ≠ 15 ∧ r ≠ rd := by
  simp only [indexed] at hr
  split at hr <;> rename_i hw
  · cases hr
  · have hwrites : writesBase p w = true := by
      revert hw
      cases p <;> cases w <;> decide
    simp only [baseOk, hwrites, Bool.not_true, Bool.false_or, notPc, Bool.and_eq_true, bne_iff_ne] at h
    obtain ⟨rfl, -⟩ := Prod.mk.inj (Option.some.inj hr)
    exact h

theorem LoadsWord.base_ok {s : State} {i : Instr} {c : Cond} {privileged : Bool} {m : Address} {rd : Reg}
    (h : LoadsWord s i c privileged m rd) (hwf : i.wf = true) {rn : Reg} {v : Word} (hw : m.writeBack = some (rn, v)) :
    rn ≠ 15 ∧ rn ≠ rd := by
  cases h with
  | ldrReg c p u w rn rd n sh rm =>
    simp only [Instr.wf, wordRegOk, wordImmOk, Bool.and_eq_true] at hwf
    obtain ⟨⟨-, hbase⟩, -⟩ := hwf
    exact baseOk_writeBack hbase hw
  | ldrImm c p u w rn rd imm12 =>
    simp only [Instr.wf, wordImmOk, Bool.and_eq_true] at hwf
    exact baseOk_writeBack hwf.2 hw
  | ldrtReg c u rn rd n sh rm =>
    simp only [Instr.wf, transRegOk, transImmOk, Bool.and_eq_true] at hwf
    obtain ⟨⟨hbase, -⟩, -⟩ := hwf
    exact baseOk_writeBack hbase hw
  | ldrtImm c u rn rd imm12 =>
    simp only [Instr.wf, transImmOk, Bool.and_eq_true] at hwf
    exact baseOk_writeBack hwf.1 hw

/-- A word load that passes the alignment check, and the pc's own check of alignment (R375). -/
theorem loadWord_of_aligned {s : State} {privileged : Bool} {m : Address} {rd : Reg}
    (hal : m.start.toNat % 4 = 0 ∨ s.settings.alignFault = false ∧ rd ≠ 15) :
    loadWord s privileged m rd =
      (s.readWord privileged (alignWord m.start)).andThen s m.writeBack fun w =>
        if rd = 15 then branchExchange (s.writeBack m.writeBack) (ror w (8 * (lowTwo m.start).toNat))
        else finishLoad s m rd (ror w (8 * (lowTwo m.start).toNat)) := by
  have hpc : ¬(rd = 15 ∧ lowTwo m.start ≠ 0) := fun ⟨e, h0⟩ =>
    hal.elim (fun h => h0 ((lowTwo_eq_zero _).mpr h)) fun h => h.2 e
  rw [loadWord, if_neg (State.passes_alignment (hal.imp_right And.left)), if_neg hpc]

/-- A misaligned load of the pc that the alignment check lets by (R375). -/
theorem loadWord_pc_misaligned {s : State} {privileged : Bool} {m : Address} (h0 : m.start.toNat % 4 ≠ 0)
    (hal : s.settings.alignFault = false) : loadWord s privileged m 15 = .refused .unpredictableAlignment :=
  (if_neg (State.passes_alignment (.inr hal))).trans (if_pos ⟨rfl, mt (lowTwo_eq_zero _).mp h0⟩)

/-- The end of a load: the base, then the register, then the next instruction. -/
theorem finishLoad_gives {s : State} (hs : s.armReady) {m : Address} {rd : Reg} (hrd : rd ≠ 15)
    (hbase : ∀ rn v, m.writeBack = some (rn, v) → rn ≠ 15 ∧ rn ≠ rd) (data : Word) :
    gives (finishLoad s m rd data) fun t =>
      t.x rd = data ∧ BaseWritten m t ∧ t.pc = s.pc + 4 ∧ SameBut (s.phys rd :: s.basePhys m) 0 noBytes s t := by
  refine ⟨_, advance_of_armReady hs (by simp) (by simp), ?_, fun rn v hw => ?_, rfl, ?_⟩
  · rw [State.x_setPc _ _ hrd, State.x_setX_same _ data hrd]
  · obtain ⟨h15, hne⟩ := hbase rn v hw
    rw [State.x_setPc _ _ h15, State.x_setX_ne _ data hne, State.x_writeBack hw h15]
  · refine ((SameBut.refl.writeBack fun rn v hw => ?_).setX rd data (by simp)).setPc _
    exact List.mem_cons_of_mem _ (State.mem_basePhys hw)

/-- The end of a load of the pc: the base, then a branch that may change the instruction set. -/
theorem branchExchange_writeBack_gives {s : State} {m : Address}
    (hbase : ∀ rn v, m.writeBack = some (rn, v) → rn ≠ 15) {data : Word} (h2 : lowTwo data ≠ 0b10) :
    gives (branchExchange (s.writeBack m.writeBack) data) fun t =>
      t.thumb = data.getLsbD 0 ∧ t.pc = data &&& 0xFFFFFFFE ∧ BaseWritten m t ∧
      SameBut (s.basePhys m) tBit noBytes s t := by
  refine ⟨_, branchExchange_next.mpr ⟨h2, rfl⟩, Psr.t_withT _ _, rfl, fun rn v hw => ?_, ?_⟩
  · have h15 := hbase rn v hw
    rw [State.x_setPc _ _ h15, State.x_setCpsr h15 (Psr.m_withT _ _), State.x_writeBack hw h15]
  · refine ((SameBut.refl.writeBack fun rn v hw => State.mem_basePhys hw).setCpsr ?_).setPc _
    rw [State.writeBack_cpsr]
    exact Psr.withT_outside _ _

/-- Settles O42: a load that nothing keeps from running ends in the register, or in a branch for the pc. -/
theorem wordLoadsRotateTheAlignedWord : Obligations.WordLoadsRotateTheAlignedWord := by
  intro s i c privileged m rd v hi hwf hc hs aligned data hal hadmit hholds
  have hdata : ror (BitVec.ofNat 32 v) (8 * (lowTwo m.start).toNat) = data := by rw [lowTwo_toNat]; rfl
  have hread : s.readWord privileged (alignWord m.start) = .value (BitVec.ofNat 32 v) :=
    State.readWord_of_holds hadmit hholds
  have hload : m.start.toNat % 4 = 0 ∨ rd ≠ 15 → exec i s =
      if rd = 15 then branchExchange (s.writeBack m.writeBack) data else finishLoad s m rd data := fun h => by
    rw [hi.exec_eq hwf hc, loadWord_of_aligned (by tauto), hread, ← hdata]
    rfl
  have hbase : ∀ rn v, m.writeBack = some (rn, v) → rn ≠ 15 ∧ rn ≠ rd := fun _ _ hw => hi.base_ok hwf hw
  have hlow : m.start.toNat % 4 = 0 → (lowTwo data).toNat = v % 4 := fun h0 => by
    rw [lowTwo_toNat, ← hdata, (lowTwo_eq_zero _).mpr h0]
    simp [ror_zero]
  refine ⟨fun hrd => ?_, fun hrd h0 h2 => ?_, fun hrd h0 h2 => ?_, fun hrd h0 => ?_⟩
  · rw [hload (.inr hrd), if_neg hrd]
    exact finishLoad_gives hs hrd hbase data
  · rw [hload (.inl h0), if_pos hrd]
    exact branchExchange_writeBack_gives (fun _ _ hw => (hbase _ _ hw).1) fun e =>
      h2 ((hlow h0).symm.trans (congrArg _ e))
  · rw [hload (.inl h0), if_pos hrd]
    exact if_pos (BitVec.eq_of_toNat_eq (y := 0b10) ((hlow h0).trans h2))
  · subst hrd
    rw [hi.exec_eq hwf hc]
    exact loadWord_pc_misaligned h0 (hal.resolve_left h0)

/-! ## The entry of a Data Abort -/

/-- The link of every exception but Reset is the one tabled in R550. -/
theorem Exception.link_tabled {e : Exception} (he : e ≠ .reset) (s : State) :
    ∃ armLink thumbLink, (e, armLink, thumbLink) ∈ linkTable ∧
      e.link s = s.pc + BitVec.ofNat 32 (if s.thumb then thumbLink else armLink) := by
  cases e with
  | reset => exact absurd rfl he
  | undefined => exact ⟨4, 2, by decide, rfl⟩
  | softwareInterrupt => exact ⟨4, 2, by decide, rfl⟩
  | prefetchAbort => exact ⟨4, 4, by decide, by simp [Exception.link]⟩
  | dataAbort => exact ⟨8, 8, by decide, by simp [Exception.link]⟩
  | irq => exact ⟨4, 4, by decide, by simp [Exception.link]⟩
  | fiq => exact ⟨4, 4, by decide, by simp [Exception.link]⟩

/-- The entry of every exception but Reset is the one of R550. -/
theorem entered_takeException {e : Exception} (he : e ≠ .reset) (s : State) : Entered e s (takeException e s) := by
  obtain ⟨armLink, thumbLink, htable, hlink⟩ := Exception.link_tabled he s
  have hspsr := takeException_spsr he s
  rw [takeException_of_ne_reset he] at hspsr ⊢
  refine ⟨e.offset.toNat, e.mode.bits, armLink, thumbLink, mem_vectorTable e, htable, by simp, ?_, hspsr, by simp,
    by simp, ?_, ?_, ?_, by simp, enterException_entryFrame e _ _ s⟩
  · rw [enterException_link, hlink]
  · have hmask : e.masksFiq = true ↔ e = .fiq := by
      cases e <;> simp [Exception.masksFiq] at he ⊢
    rw [enterException_cpsr, Psr.f_withControl, Bool.or_eq_true, hmask, or_comm]
  · rw [enterException_cpsr, Psr.withControl_outside]
  · rw [enterException_pc, BitVec.ofNat_toNat, BitVec.setWidth_eq]
    rfl

section
variable {s : State} {m : Address} {r : Result}

theorem gives_of_dataAbort (h : r = dataAbort s m.writeBack) : gives r (Entered .dataAbort (s.abortedWith m)) :=
  ⟨_, h, entered_takeException (by decide) _⟩

/-- A Data Abort of an instruction that writes no base. -/
theorem gives_of_dataAbort_none (h : r = dataAbort s none) : gives r (Entered .dataAbort s) := by
  have hs : s.onAbort none = s := ite_self s
  exact ⟨_, h.trans (dataAbort_next.mpr rfl), hs.symm ▸ entered_takeException (by decide) s⟩

theorem State.abortedWith_useFree (s : State) (n : Nat) (m : Address) :
    (s.useFree n).abortedWith m = (s.abortedWith m).useFree n := by
  have hwrite : (s.useFree n).writeBack m.writeBack = (s.writeBack m.writeBack).useFree n := by
    cases m.writeBack with
    | none => rfl
    | some w =>
      simp only [State.writeBack, State.setX, State.useFree_mode]
      split <;> rfl
  unfold State.abortedWith
  rw [hwrite, State.useFree_settings]
  split <;> rfl

/-- The count of free values is no matter to a Data Abort. -/
theorem gives_of_dataAbort_useFree {n : Nat} (h : r = dataAbort (s.useFree n) m.writeBack) :
    gives r (Entered .dataAbort (s.abortedWith m)) := by
  obtain ⟨t, ht, hentered⟩ := gives_of_dataAbort h
  rw [State.abortedWith_useFree] at hentered
  exact ⟨t, ht, hentered⟩

end

/-! ## Single accesses that abort -/

theorem State.access_andThen_of_aborts {α : Type} {s : State} {privileged : Bool} {size : Nat} {a : Word} {v : Option α}
    {wb : Option (Reg × Word)} {k : α → Result} (h : s.settings.aborts .read privileged size a = true) :
    (s.access privileged size a v).andThen s wb k = dataAbort s wb := by
  rw [State.access_abort.mpr h]
  rfl

theorem finishStore_of_aborts {s : State} {privileged : Bool} {a : Word} {bs : List Byte} {wb : Option (Reg × Word)}
    (h : s.settings.aborts .write privileged bs.length a = true) :
    finishStore s (s.writeBytes privileged a bs) wb = dataAbort s wb := by
  rw [State.writeBytes_none.mpr h]
  rfl

/-- For a misaligned access that does not span the top of memory, the alignment check decides. -/
theorem misaligned_of_fits {s : State} {m : Address} {size : Nat} (h : m.start.toNat + size ≤ 2 ^ 32) (k : Result) :
    misaligned s m size k = if s.settings.alignFault then dataAbort s m.writeBack else k := by
  rw [misaligned, (spansTop_eq_false _ _).mpr h]
  rfl

section
variable {s : State} {m : Address}

theorem loadWord_misaligned {privileged : Bool} {rd : Reg} (hal : s.settings.alignFault = true)
    (h : m.start.toNat % 4 ≠ 0) : loadWord s privileged m rd = dataAbort s m.writeBack :=
  if_pos (State.fails_alignment h hal)

theorem loadWord_of_aborts {privileged : Bool} {rd : Reg}
    (hal : m.start.toNat % 4 = 0 ∨ s.settings.alignFault = false ∧ rd ≠ 15)
    (h : s.settings.aborts .read privileged 4 (alignWord m.start) = true) :
    loadWord s privileged m rd = dataAbort s m.writeBack :=
  (loadWord_of_aligned hal).trans (State.access_andThen_of_aborts h)

theorem loadHalf_misaligned {rd : Reg} {ext : Half → Word} (hal : s.settings.alignFault = true)
    (h : m.start.toNat % 2 ≠ 0) (hfit : m.start.toNat + 2 ≤ 2 ^ 32) :
    loadHalf s m rd ext = dataAbort s m.writeBack := by
  rw [loadHalf, if_pos ((getLsbD_zero_iff _).mpr (by omega)), misaligned_of_fits hfit, if_pos hal]

theorem loadHalf_of_aborts {rd : Reg} {ext : Half → Word} (hal : m.start.toNat % 2 = 0)
    (h : s.settings.aborts .read s.privileged 2 m.start = true) : loadHalf s m rd ext = dataAbort s m.writeBack :=
  (if_neg (mt (getLsbD_zero_iff _).mp (by omega))).trans (State.access_andThen_of_aborts h)

theorem storeWord_misaligned {privileged : Bool} {v : Word} (hal : s.settings.alignFault = true)
    (h : m.start.toNat % 4 ≠ 0) : storeWord s privileged m v = dataAbort s m.writeBack :=
  if_pos (State.fails_alignment h hal)

theorem storeWord_of_aborts {privileged : Bool} {v : Word} (hal : m.start.toNat % 4 = 0 ∨ s.settings.alignFault = false)
    (h : s.settings.aborts .write privileged 4 (alignWord m.start) = true) :
    storeWord s privileged m v = dataAbort s m.writeBack :=
  (if_neg (State.passes_alignment hal)).trans (finishStore_of_aborts (by rwa [splitWord_length]))

theorem storeHalf_misaligned {v : Word} (hal : s.settings.alignFault = true) (h : m.start.toNat % 2 ≠ 0)
    (hfit : m.start.toNat + 2 ≤ 2 ^ 32) : storeHalf s m v = dataAbort s m.writeBack := by
  rw [storeHalf, if_pos ((getLsbD_zero_iff _).mpr (by omega)), misaligned_of_fits hfit, if_pos hal]

theorem storeHalf_of_aborts {v : Word} (hal : m.start.toNat % 2 = 0)
    (h : s.settings.aborts .write s.privileged 2 m.start = true) : storeHalf s m v = dataAbort s m.writeBack :=
  (if_neg (mt (getLsbD_zero_iff _).mp (by omega))).trans (finishStore_of_aborts (by rwa [splitHalf_length]))

end

/-! ## ARM loads and stores of one register -/

section
variable {s : State} {i : Instr} {c : Cond} {privileged : Bool} {m : Address} {rd : Reg} {n : Nat} {signed : Bool}
  {v : Word}

theorem LoadsNarrow.misaligned_aborts (hi : LoadsNarrow s i c privileged m rd n signed) (hwf : i.wf = true)
    (hc : Cond.holds c s.cpsr = true) (hal : s.settings.alignFault = true) (h : m.start.toNat % n ≠ 0)
    (hfit : m.start.toNat + n ≤ 2 ^ 32) : exec i s = dataAbort s m.writeBack := by
  cases hi with
  | ldrbReg | ldrbImm | ldrbtReg | ldrbtImm | ldrsbReg | ldrsbImm => exact absurd (Nat.mod_one _) h
  | ldrhReg | ldrhImm | ldrshReg | ldrshImm =>
    exact (onCondition_of_holds hwf hc _).trans (loadHalf_misaligned hal h hfit)

theorem LoadsNarrow.exec_of_aborts (hi : LoadsNarrow s i c privileged m rd n signed) (hwf : i.wf = true)
    (hc : Cond.holds c s.cpsr = true) (hal : m.start.toNat % n = 0)
    (h : s.settings.aborts .read privileged n m.start = true) : exec i s = dataAbort s m.writeBack := by
  cases hi with
  | ldrbReg | ldrbImm | ldrbtReg | ldrbtImm | ldrsbReg | ldrsbImm =>
    exact (onCondition_of_holds hwf hc _).trans (State.access_andThen_of_aborts h)
  | ldrhReg | ldrhImm | ldrshReg | ldrshImm => exact (onCondition_of_holds hwf hc _).trans (loadHalf_of_aborts hal h)

theorem Stores.misaligned_aborts (hi : Stores s i c privileged m n v) (hwf : i.wf = true)
    (hc : Cond.holds c s.cpsr = true) (hal : s.settings.alignFault = true) (h : m.start.toNat % n ≠ 0)
    (hfit : n = 4 ∨ m.start.toNat + n ≤ 2 ^ 32) : exec i s = dataAbort s m.writeBack := by
  cases hi with
  | strbReg | strbImm | strbtReg | strbtImm => exact absurd (Nat.mod_one _) h
  | strhReg | strhImm =>
    exact (onCondition_of_holds hwf hc _).trans (storeHalf_misaligned hal h (hfit.resolve_left (by decide)))
  | strReg | strImm | strtReg | strtImm => exact (onCondition_of_holds hwf hc _).trans (storeWord_misaligned hal h)

theorem Stores.exec_word (hi : Stores s i c privileged m 4 v) (hwf : i.wf = true) (hc : Cond.holds c s.cpsr = true) :
    exec i s = storeWord s privileged m v := by
  cases hi <;> exact onCondition_of_holds hwf hc _

theorem Stores.exec_of_aborts (hi : Stores s i c privileged m n v) (hwf : i.wf = true)
    (hc : Cond.holds c s.cpsr = true) (hn : n ≠ 4) (hal : m.start.toNat % n = 0)
    (h : s.settings.aborts .write privileged n m.start = true) : exec i s = dataAbort s m.writeBack := by
  cases hi with
  | strbReg | strbImm | strbtReg | strbtImm =>
    exact (onCondition_of_holds hwf hc _).trans (finishStore_of_aborts h)
  | strhReg | strhImm => exact (onCondition_of_holds hwf hc _).trans (storeHalf_of_aborts hal h)
  | strReg | strImm | strtReg | strtImm => exact absurd rfl hn

end

/-! ## Thumb loads and stores of one register -/

/-- An offset that counts units of `2 ^ k` bytes, as a number of bytes. -/
theorem scaledOffset_eq {w : Nat} (imm : BitVec w) (k : Nat) :
    imm.setWidth 32 <<< k = BitVec.ofNat 32 (2 ^ k * imm.toNat) := by
  apply BitVec.eq_of_toNat_eq
  rw [BitVec.toNat_shiftLeft, BitVec.toNat_setWidth, BitVec.toNat_ofNat, Nat.shiftLeft_eq, Nat.mod_mul_mod, Nat.mul_comm]

theorem wordsOffset_eq {w : Nat} (imm : BitVec w) : imm.setWidth 32 <<< 2 = BitVec.ofNat 32 (4 * imm.toNat) :=
  scaledOffset_eq imm 2

theorem halvesOffset_eq {w : Nat} (imm : BitVec w) : imm.setWidth 32 <<< 1 = BitVec.ofNat 32 (2 * imm.toNat) :=
  scaledOffset_eq imm 1

/-- What is left of an address when the remainder is taken off is the aligned address. -/
theorem sub_mod_four (a : Word) : a - BitVec.ofNat 32 (a.toNat % 4) = alignWord a := by
  apply BitVec.eq_of_toNat_eq
  rw [alignWord_toNat, BitVec.toNat_sub, BitVec.toNat_ofNat]
  omega

theorem sub_mod_two (a : Word) : a - BitVec.ofNat 32 (a.toNat % 2) = alignHalf a := by
  apply BitVec.eq_of_toNat_eq
  rw [alignHalf_toNat, BitVec.toNat_sub, BitVec.toNat_ofNat]
  omega

section
variable {s : State} {a : Word} {rd : LowReg}

/-! ### The operations that they run -/

/-- A misaligned Thumb access, whether it would load or store, fails the alignment check. -/
theorem thumbUnaligned_checked {size : Nat} {k : Result} (hal : s.settings.alignFault = true)
    (hfit : a.toNat + size ≤ 2 ^ 32) : thumbUnaligned s a size k = dataAbort s none :=
  (misaligned_of_fits (m := ⟨a, none⟩) hfit k).trans (if_pos hal)

/-- A misaligned Thumb access that the alignment check lets by goes on. -/
theorem thumbUnaligned_unchecked {size : Nat} {k : Result} (hal : s.settings.alignFault = false)
    (hfit : a.toNat + size ≤ 2 ^ 32) : thumbUnaligned s a size k = k :=
  (misaligned_of_fits (m := ⟨a, none⟩) hfit k).trans (if_neg (Bool.eq_false_iff.mp hal))

/-- A Thumb access offered to the memory system at its own address or at the aligned one, and refused there. -/
theorem thumbAccess_of_aborts {size : Nat} {aligned unaligned : Result}
    (hal : a.toNat % size = 0 ∨ s.settings.alignFault = false ∧ a.toNat + size ≤ 2 ^ 32)
    (h0 : a.toNat % size = 0 → aligned = dataAbort s none) (h1 : unaligned = dataAbort s none) :
    (if a.toNat % size = 0 then aligned else thumbUnaligned s a size unaligned) = dataAbort s none := by
  split <;> rename_i h
  · exact h0 h
  · obtain ⟨hal, hfit⟩ := hal.resolve_left h
    rw [thumbUnaligned_unchecked hal hfit, h1]

theorem thumbLoadWord_eq :
    thumbLoadWord s a rd =
      if a.toNat % 4 = 0 then loadWord s s.privileged ⟨a, none⟩ (lowReg rd)
      else thumbUnaligned s a 4 (loadFree s 4 (alignWord a) rd) := by
  simp only [thumbLoadWord, lowTwo_eq_zero]

theorem thumbStoreWord_eq :
    thumbStoreWord s a rd =
      if a.toNat % 4 = 0 then storeWord s s.privileged ⟨a, none⟩ (s.x (lowReg rd))
      else thumbUnaligned s a 4 (storeFree s 4 (alignWord a) a) := by
  simp only [thumbStoreWord, lowTwo_eq_zero]

theorem thumbLoadHalf_eq {ext : Half → Word} :
    thumbLoadHalf s a rd ext =
      if a.toNat % 2 = 0 then loadHalf s ⟨a, none⟩ (lowReg rd) ext
      else thumbUnaligned s a 2 (loadFree s 2 (alignHalf a) rd) := by
  simp only [thumbLoadHalf, getLsbD_zero_iff, ← Nat.mod_two_ne_zero, ne_eq, ite_not]

theorem thumbStoreHalf_eq :
    thumbStoreHalf s a rd =
      if a.toNat % 2 = 0 then storeHalf s ⟨a, none⟩ (s.x (lowReg rd))
      else thumbUnaligned s a 2 (storeFree s 2 (alignHalf a) a) := by
  simp only [thumbStoreHalf, getLsbD_zero_iff, ← Nat.mod_two_ne_zero, ne_eq, ite_not]

/-! ### Which instruction runs which -/

variable {i : Instr} {n : Nat} {signed : Bool}

theorem ThumbLoads.width (h : ThumbLoads s i a rd n signed) : n = 1 ∨ n = 2 ∨ n = 4 := by
  cases h <;> simp

theorem ThumbStores.width (h : ThumbStores s i a rd n) : n = 1 ∨ n = 2 ∨ n = 4 := by
  cases h <;> simp

/-- LDR (3) alone reads the pc, which is as its rule has it in Thumb state; its address is aligned in either state. -/
theorem ThumbLoads.exec_word (h : ThumbLoads s i a rd 4 signed) (hs : s.thumb = true ∨ a.toNat % 4 ≠ 0) :
    exec i s = thumbLoadWord s a rd := by
  cases h with
  | tLdr2 rm rn rd => exact always_of_wf (i := .tLdr2 rm rn rd) rfl _
  | tLdr1 imm5 rn rd =>
    rw [← wordsOffset_eq]
    exact always_of_wf (i := .tLdr1 imm5 rn rd) rfl _
  | tLdr4 rd imm8 =>
    rw [← wordsOffset_eq]
    exact always_of_wf (i := .tLdr4 rd imm8) rfl _
  | tLdr3 rd imm8 =>
    have hread : s.pcRead = s.pc + 4 := by
      refine hs.elim (fun ht => by rw [State.pcRead, ht]; rfl) fun h0 => absurd ?_ h0
      rw [← lowTwo_eq_zero]
      refine lowTwo_add (lowTwo_alignWord _) ((lowTwo_eq_zero _).mpr ?_)
      rw [BitVec.toNat_ofNat]
      omega
    rw [← wordsOffset_eq, ← hread]
    exact always_of_wf (i := .tLdr3 rd imm8) rfl _

theorem ThumbLoads.exec_half (h : ThumbLoads s i a rd 2 signed) :
    exec i s = thumbLoadHalf s a rd (if signed then BitVec.signExtend 32 else BitVec.setWidth 32) := by
  cases h with
  | tLdrh2 rm rn rd => exact always_of_wf (i := .tLdrh2 rm rn rd) rfl _
  | tLdrsh rm rn rd => exact always_of_wf (i := .tLdrsh rm rn rd) rfl _
  | tLdrh1 imm5 rn rd =>
    rw [← halvesOffset_eq]
    exact always_of_wf (i := .tLdrh1 imm5 rn rd) rfl _

theorem ThumbLoads.exec_byte (h : ThumbLoads s i a rd 1 signed) :
    exec i s =
      if signed then loadSignedByte s ⟨a, none⟩ (lowReg rd) else loadByte s s.privileged ⟨a, none⟩ (lowReg rd) := by
  cases h with
  | tLdrb2 rm rn rd => exact always_of_wf (i := .tLdrb2 rm rn rd) rfl _
  | tLdrsb rm rn rd => exact always_of_wf (i := .tLdrsb rm rn rd) rfl _
  | tLdrb1 imm5 rn rd =>
    rw [BitVec.ofNat_toNat]
    exact always_of_wf (i := .tLdrb1 imm5 rn rd) rfl _

theorem ThumbStores.exec_word (h : ThumbStores s i a rd 4) : exec i s = thumbStoreWord s a rd := by
  cases h with
  | tStr2 rm rn rd => exact always_of_wf (i := .tStr2 rm rn rd) rfl _
  | tStr1 imm5 rn rd =>
    rw [← wordsOffset_eq]
    exact always_of_wf (i := .tStr1 imm5 rn rd) rfl _
  | tStr3 rd imm8 =>
    rw [← wordsOffset_eq]
    exact always_of_wf (i := .tStr3 rd imm8) rfl _

theorem ThumbStores.exec_half (h : ThumbStores s i a rd 2) : exec i s = thumbStoreHalf s a rd := by
  cases h with
  | tStrh2 rm rn rd => exact always_of_wf (i := .tStrh2 rm rn rd) rfl _
  | tStrh1 imm5 rn rd =>
    rw [← halvesOffset_eq]
    exact always_of_wf (i := .tStrh1 imm5 rn rd) rfl _

theorem ThumbStores.exec_byte (h : ThumbStores s i a rd 1) :
    exec i s = storeByte s s.privileged ⟨a, none⟩ (s.x (lowReg rd)) := by
  cases h with
  | tStrb2 rm rn rd => exact always_of_wf (i := .tStrb2 rm rn rd) rfl _
  | tStrb1 imm5 rn rd =>
    rw [BitVec.ofNat_toNat]
    exact always_of_wf (i := .tStrb1 imm5 rn rd) rfl _

/-! ### When they abort -/

theorem ThumbLoads.misaligned_aborts (h : ThumbLoads s i a rd n signed) (hal : s.settings.alignFault = true)
    (h0 : a.toNat % n ≠ 0) (hfit : a.toNat + n ≤ 2 ^ 32) : exec i s = dataAbort s none := by
  obtain rfl | rfl | rfl := h.width
  · exact absurd (Nat.mod_one _) h0
  · rw [h.exec_half, thumbLoadHalf_eq, if_neg h0, thumbUnaligned_checked hal hfit]
  · rw [h.exec_word (.inr h0), thumbLoadWord_eq, if_neg h0, thumbUnaligned_checked hal hfit]

theorem ThumbStores.misaligned_aborts (h : ThumbStores s i a rd n) (hal : s.settings.alignFault = true)
    (h0 : a.toNat % n ≠ 0) (hfit : a.toNat + n ≤ 2 ^ 32) : exec i s = dataAbort s none := by
  obtain rfl | rfl | rfl := h.width
  · exact absurd (Nat.mod_one _) h0
  · rw [h.exec_half, thumbStoreHalf_eq, if_neg h0, thumbUnaligned_checked hal hfit]
  · rw [h.exec_word, thumbStoreWord_eq, if_neg h0, thumbUnaligned_checked hal hfit]

theorem ThumbLoads.exec_of_aborts (h : ThumbLoads s i a rd n signed) (hs : s.thumb = true)
    (hal : a.toNat % n = 0 ∨ s.settings.alignFault = false ∧ a.toNat + n ≤ 2 ^ 32)
    (hr : s.settings.aborts .read s.privileged n (a - BitVec.ofNat 32 (a.toNat % n)) = true) :
    exec i s = dataAbort s none := by
  obtain rfl | rfl | rfl := h.width
  · rw [Nat.mod_one, BitVec.sub_zero] at hr
    rw [h.exec_byte]
    split <;> exact State.access_andThen_of_aborts hr
  · rw [h.exec_half, thumbLoadHalf_eq]
    refine thumbAccess_of_aborts hal (fun h0 => loadHalf_of_aborts h0 ?_) (if_pos (sub_mod_two a ▸ hr))
    rwa [h0, BitVec.sub_zero] at hr
  · rw [sub_mod_four] at hr
    rw [h.exec_word (.inl hs), thumbLoadWord_eq]
    exact thumbAccess_of_aborts hal (fun h0 => loadWord_of_aborts (.inl h0) hr) (if_pos hr)

theorem ThumbStores.exec_of_aborts (h : ThumbStores s i a rd n)
    (hal : a.toNat % n = 0 ∨ s.settings.alignFault = false ∧ a.toNat + n ≤ 2 ^ 32)
    (hr : s.settings.aborts .write s.privileged n (a - BitVec.ofNat 32 (a.toNat % n)) = true) :
    exec i s = dataAbort s none := by
  obtain rfl | rfl | rfl := h.width
  · rw [Nat.mod_one, BitVec.sub_zero] at hr
    exact h.exec_byte.trans (finishStore_of_aborts hr)
  · rw [h.exec_half, thumbStoreHalf_eq]
    refine thumbAccess_of_aborts hal (fun h0 => storeHalf_of_aborts h0 ?_) (if_pos (sub_mod_two a ▸ hr))
    rwa [h0, BitVec.sub_zero] at hr
  · rw [sub_mod_four] at hr
    rw [h.exec_word, thumbStoreWord_eq]
    exact thumbAccess_of_aborts hal (fun h0 => storeWord_of_aborts (.inl h0) hr) (if_pos hr)

end

/-! ## Swaps that abort -/

section
variable {s : State} {i : Instr} {c : Cond} {a : Word} {n : Nat}

theorem finishSwap_of_aborts {privileged : Bool} {bs : List Byte} {rd : Reg} {old : Word}
    (h : s.settings.aborts .write privileged bs.length a = true) :
    finishSwap (s.writeBytes privileged a bs) s rd old = dataAbort s none := by
  rw [State.writeBytes_none.mpr h]
  rfl

theorem Swaps.exec_word (h : Swaps s i c a 4) (hwf : i.wf = true) (hc : Cond.holds c s.cpsr = true) :
    ∃ rn rd rm, a = s.x rn ∧ exec i s = swapWord s rn rd rm := by
  cases h with
  | swp c rn rd sbz rm => exact ⟨rn, rd, rm, rfl, onCondition_of_holds hwf hc _⟩

theorem Swaps.exec_byte (h : Swaps s i c a 1) (hwf : i.wf = true) (hc : Cond.holds c s.cpsr = true) :
    ∃ rn rd rm, a = s.x rn ∧ exec i s = swapByte s rn rd rm := by
  cases h with
  | swpb c rn rd sbz rm => exact ⟨rn, rd, rm, rfl, onCondition_of_holds hwf hc _⟩

theorem Swaps.width (h : Swaps s i c a n) : n = 1 ∨ n = 4 := by
  cases h <;> simp

theorem Swaps.misaligned_aborts (h : Swaps s i c a 4) (hwf : i.wf = true) (hc : Cond.holds c s.cpsr = true)
    (hal : s.settings.alignFault = true) (h0 : a.toNat % 4 ≠ 0) : exec i s = dataAbort s none := by
  obtain ⟨rn, rd, rm, rfl, hexec⟩ := h.exec_word hwf hc
  exact hexec.trans (if_pos (State.fails_alignment h0 hal))

/-- A swap of which the memory system refuses the read, or after the read the write. -/
theorem Swaps.exec_of_aborts (h : Swaps s i c a n) (hwf : i.wf = true) (hc : Cond.holds c s.cpsr = true)
    (hal : n = 1 ∨ a.toNat % 4 = 0 ∨ s.settings.alignFault = false)
    (hr : s.settings.aborts .read s.privileged n (if n = 4 then alignWord a else a) = true ∨
      s.settings.aborts .read s.privileged n (if n = 4 then alignWord a else a) = false ∧
        (∃ v, s.holds (if n = 4 then alignWord a else a) n v) ∧
        s.settings.aborts .write s.privileged n (if n = 4 then alignWord a else a) = true) :
    exec i s = dataAbort s none := by
  obtain rfl | rfl := h.width
  · obtain ⟨rn, rd, rm, rfl, hexec⟩ := h.exec_byte hwf hc
    rw [if_neg (by decide)] at hr
    rw [hexec]
    rcases hr with hread | ⟨hread, ⟨v, hv⟩, hwrite⟩
    · exact State.access_andThen_of_aborts hread
    · rw [swapByte, State.readByte_of_holds hread hv]
      exact finishSwap_of_aborts hwrite
  · obtain ⟨rn, rd, rm, rfl, hexec⟩ := h.exec_word hwf hc
    rw [if_pos rfl] at hr
    rw [hexec, swapWord_of_aligned (hal.resolve_left (by decide))]
    rcases hr with hread | ⟨hread, ⟨v, hv⟩, hwrite⟩
    · exact State.access_andThen_of_aborts hread
    · rw [State.readWord_of_holds hread hv]
      exact finishSwap_of_aborts (by rwa [splitWord_length])

end

/-! ## Sequences of words -/

theorem offer_of_accepts {s : State} {cp : CpNum} {op : CpOp} {words : List Word} {lessOne : BitVec 4}
    {k : BitVec 4 → Result} (h : s.accepts? cp op words = some lessOne) : offer s cp op words k = k lessOne := by
  rw [offer, h]

theorem misalignedDouble_iff (a : Word) : misalignedDouble a = true ↔ a.toNat % 8 ≠ 0 := by
  have h : a.extractLsb' 0 3 = 0 ↔ a.toNat % 8 = 0 := by
    rw [← BitVec.toNat_inj]
    simp
  rw [misalignedDouble, bne_iff_ne, ne_eq, h]

section
variable {s : State} {m : Address} {n : Nat} {k : List Word → Result} {vs : List Word} {rd : Reg}

theorem loadBlock_misaligned (hal : s.settings.alignFault = true) (h : m.start.toNat % 4 ≠ 0)
    (hfit : (alignWord m.start).toNat + 4 * n ≤ 2 ^ 32) : loadBlock s m n k = dataAbort s m.writeBack := by
  rw [loadBlock, (blockWraps_eq_false _ _).mpr hfit]
  exact if_pos (State.fails_alignment h hal)

theorem loadBlock_of_aligned (hal : m.start.toNat % 4 = 0 ∨ s.settings.alignFault = false)
    (hfit : (alignWord m.start).toNat + 4 * n ≤ 2 ^ 32) :
    loadBlock s m n k = (s.readBlock s.privileged m.start n).andThen s m.writeBack k := by
  rw [loadBlock, (blockWraps_eq_false _ _).mpr hfit]
  exact if_neg (State.passes_alignment hal)

theorem storeBlock_misaligned (hal : s.settings.alignFault = true) (h : m.start.toNat % 4 ≠ 0)
    (hfit : (alignWord m.start).toNat + 4 * vs.length ≤ 2 ^ 32) : storeBlock s m vs = dataAbort s m.writeBack := by
  rw [storeBlock, (blockWraps_eq_false _ _).mpr hfit]
  exact if_pos (State.fails_alignment h hal)

theorem storeBlock_of_aligned (hal : m.start.toNat % 4 = 0 ∨ s.settings.alignFault = false)
    (hfit : (alignWord m.start).toNat + 4 * vs.length ≤ 2 ^ 32) :
    storeBlock s m vs = finishBlock (s.writeBlock s.privileged m.start vs) m.writeBack := by
  rw [storeBlock, (blockWraps_eq_false _ _).mpr hfit]
  exact if_neg (State.passes_alignment hal)

theorem loadDouble_misaligned (hal : s.settings.alignFault = true) (h : m.start.toNat % 8 ≠ 0)
    (hfit : m.start.toNat + 8 ≤ 2 ^ 32) : loadDouble s m rd = dataAbort s m.writeBack := by
  rw [loadDouble, if_pos ((misalignedDouble_iff _).mpr h), misaligned_of_fits hfit, if_pos hal]

theorem loadDouble_of_aligned (hal : m.start.toNat % 8 = 0) :
    loadDouble s m rd =
      (s.readBlock s.privileged m.start 2).andThen s m.writeBack fun vs =>
        advance ((s.writeBack m.writeBack).setXs ([rd, rd + 1].zip vs)) :=
  if_neg (mt (misalignedDouble_iff _).mp (not_not.mpr hal))

theorem storeDouble_misaligned (hal : s.settings.alignFault = true) (h : m.start.toNat % 8 ≠ 0)
    (hfit : m.start.toNat + 8 ≤ 2 ^ 32) : storeDouble s m rd = dataAbort s m.writeBack := by
  rw [storeDouble, if_pos ((misalignedDouble_iff _).mpr h), misaligned_of_fits hfit, if_pos hal]

theorem storeDouble_of_aligned (hal : m.start.toNat % 8 = 0) :
    storeDouble s m rd = finishBlock (s.writeBlock s.privileged m.start [s.x rd, s.x (rd + 1)]) m.writeBack :=
  if_neg (mt (misalignedDouble_iff _).mp (not_not.mpr hal))

end

/-! ### Which instruction runs which -/

section
variable {s : State} {i : Instr} {c : Cond} {m : Address} {list : BitVec 16}

theorem LoadsBlock.exec_eq (h : LoadsBlock s i c m list) (hwf : i.wf = true) (hc : Cond.holds c s.cpsr = true) :
    exec i s = loadMultiple s m list := by
  cases h with
  | ldm1 => exact onCondition_of_holds hwf hc _
  | tPop | tLdmia => exact always_of_wf hwf _

theorem StoresBlock.exec_eq (h : StoresBlock s i c m list) (hwf : i.wf = true) (hc : Cond.holds c s.cpsr = true) :
    exec i s = storeMultiple s m list := by
  cases h with
  | stm1 => exact onCondition_of_holds hwf hc _
  | tPush | tStmia => exact always_of_wf hwf _

theorem Doubles.exec_eq {rd : Reg} {store : Bool} (h : Doubles s i c m rd store) (hwf : i.wf = true)
    (hc : Cond.holds c s.cpsr = true) : exec i s = if store then storeDouble s m rd else loadDouble s m rd := by
  cases h <;> exact onCondition_of_holds hwf hc _

theorem CpTransfers.exec_eq {cp : CpNum} {op : CpOp} {store : Bool} (h : CpTransfers s i c cp op m store)
    (hwf : i.wf = true) (hc : Cond.holds c s.cpsr = true) :
    exec i s = if store then storeCp s cp op m else loadCp s cp op m := by
  cases h with
  | ldc | stc => exact onCondition_of_holds hwf hc _
  | ldc2 | stc2 => exact always_of_wf hwf _

/-- An instruction that reads a sequence of words is a block load, or LDRD. -/
theorem ReadsWords.exec_eq {unit n : Nat} (h : ReadsWords s i c m unit n) (hwf : i.wf = true)
    (hc : Cond.holds c s.cpsr = true) :
    (unit = 4 ∧ ∃ k, exec i s = loadBlock s m n k) ∨ (unit = 8 ∧ n = 2 ∧ ∃ rd, exec i s = loadDouble s m rd) := by
  cases h with
  | block _ _ _ list hi => exact .inl ⟨rfl, _, hi.exec_eq hwf hc⟩
  | ldm2 c p u rn list hs | ldm3 c p u w rn list hs =>
    have hmode := Bool.eq_false_iff.mp (Option.isNone_eq_false_iff.mpr hs)
    exact .inl ⟨rfl, _, (onCondition_of_holds hwf hc _).trans (if_neg hmode)⟩
  | double _ _ _ rd hi => exact .inr ⟨rfl, rfl, rd, hi.exec_eq hwf hc⟩
  | ldc _ _ cp op _ lessOne hi haccept => exact .inl ⟨rfl, _, (hi.exec_eq hwf hc).trans (offer_of_accepts haccept)⟩

/-- The value stored for a register is stated where the register is no base that is written back, or is the lowest. -/
theorem State.blockValue_of_stated {regs : List Reg} {j : Nat} {r : Reg} (hr : regs[j]? = some r)
    (h : j = 0 ∨ ∀ b, m.writeBack ≠ some (r, b)) : s.blockValue m regs r = s.storedValue r := by
  refine if_neg fun hfree => ?_
  obtain ⟨hbase, hlowest⟩ := by simpa [storesFree] using hfree
  obtain rfl | h := h
  · exact hlowest (List.head?_eq_getElem? ▸ hr)
  · obtain ⟨b, hb⟩ := hbase
    exact h b hb

/-- An instruction that writes a sequence of words is a block store, perhaps after free values have been used, or STRD;
its words are the stated ones. -/
theorem WritesWords.exec_eq {unit n : Nat} {stored : Nat → Word → Prop} (h : WritesWords s i c m unit n stored)
    (hwf : i.wf = true) (hc : Cond.holds c s.cpsr = true) :
    ∃ free vs, vs.length = n ∧ (∀ j v, j < n → stored j v → vs[j]? = some v) ∧
      ((unit = 4 ∧ exec i s = storeBlock (s.useFree free) m vs) ∨
        (unit = 8 ∧ ∃ rd, vs = [s.x rd, s.x (rd + 1)] ∧ exec i s = storeDouble (s.useFree free) m rd)) := by
  cases h with
  | block _ _ _ list hi =>
    refine ⟨_, _, by simp, ?_, .inl ⟨rfl, hi.exec_eq hwf hc⟩⟩
    rintro j v - ⟨r, hr, hstated, rfl⟩
    rw [List.getElem?_map, hr, Option.map_some, State.blockValue_of_stated hr hstated]
    rfl
  | stm2 c p u rn list hs =>
    have hmode := Bool.eq_false_iff.mp (Option.isNone_eq_false_iff.mpr hs)
    refine ⟨0, _, by simp, ?_, .inl ⟨rfl, (onCondition_of_holds hwf hc _).trans (if_neg hmode)⟩⟩
    rintro j v - ⟨r, hr, rfl⟩
    rw [List.getElem?_map, hr]
    rfl
  | double _ _ _ rd hi => exact ⟨0, _, rfl, fun j v _ hv => hv, .inr ⟨rfl, rd, rfl, hi.exec_eq hwf hc⟩⟩
  | stc _ _ cp op _ lessOne hi haccept =>
    refine ⟨0, _, by simp [wordCount], ?_, .inl ⟨rfl, (hi.exec_eq hwf hc).trans (offer_of_accepts haccept)⟩⟩
    rintro j v hj rfl
    have hrange : (List.range (wordCount lessOne))[j]? = some j := List.getElem?_range hj
    rw [List.getElem?_map, hrange]
    rfl

end

/-! ### Reads and writes up to the first abort -/

section
variable {s : State} {privileged : Bool} {a : Word} {vs : List Word}

/-- A block read of which the words `vs` can be read, and the next is refused. -/
theorem State.readBlock_abort {n : Nat} (hlt : vs.length < n)
    (hread : ∀ k v, vs[k]? = some v → s.readWord privileged (alignWord (a + BitVec.ofNat 32 (4 * k))) = .value v)
    (habort : s.settings.aborts .read privileged 4 (alignWord (a + BitVec.ofNat 32 (4 * vs.length))) = true) :
    s.readBlock privileged a n = .abort := by
  induction vs generalizing a n with
  | nil =>
    obtain ⟨n, rfl⟩ := Nat.exists_eq_add_of_lt hlt
    have hfirst : s.readWord privileged (alignWord a) = .abort := State.access_abort.mpr (by simpa using habort)
    simp [State.readBlock, hfirst]
  | cons v vs ih =>
    obtain ⟨n, rfl⟩ : ∃ j, n = j + 1 := ⟨n - 1, by omega⟩
    have hfirst : s.readWord privileged (alignWord a) = .value v := by simpa using hread 0 v rfl
    have hrest : s.readBlock privileged (a + 4) n = .abort := by
      refine ih (by simpa using hlt) (fun k w hk => ?_) ?_
      · rw [word_succ]
        exact hread (k + 1) w (by simpa using hk)
      · rw [word_succ]
        exact habort
    simp only [State.readBlock, hfirst, hrest]

/-- Words that are admitted and held can be read. -/
theorem State.readWord_of_holdsWords (hadmit : s.admits .read a vs.length) (h : s.holdsWords a vs) {k : Nat} {v : Word}
    (hk : vs[k]? = some v) : s.readWord s.privileged (alignWord (a + BitVec.ofNat 32 (4 * k))) = .value v := by
  have hlt : k < vs.length := (List.getElem?_eq_some_iff.mp hk).1
  have hholds := h k v hk
  rw [← alignWord_add] at hholds
  simpa using State.readWord_of_holds (hadmit k hlt) hholds

/-- A block write of which the words below `k` are admitted and the next is refused stores those words. -/
theorem State.writeBlock_abort {k : Nat} (hk : k < vs.length)
    (hadmit : ∀ j, j < k → s.settings.aborts .write privileged 4 (alignWord (a + BitVec.ofNat 32 (4 * j))) = false)
    (habort : s.settings.aborts .write privileged 4 (alignWord (a + BitVec.ofNat 32 (4 * k))) = true) :
    s.writeBlock privileged a vs = ((s.writeBlock privileged a (vs.take k)).1, true) := by
  induction k generalizing s a vs with
  | zero =>
    obtain ⟨v, vs, rfl⟩ := List.exists_cons_of_length_pos hk
    have hfirst : s.writeWord privileged (alignWord a) v = none :=
      State.writeBytes_none.mpr (by simpa using habort)
    simp [State.writeBlock, hfirst]
  | succ k ih =>
    obtain ⟨v, vs, rfl⟩ := List.exists_cons_of_length_pos (by omega : 0 < vs.length)
    have hfirst := State.writeWord_of_admits (s := s) (a := alignWord a) (by simpa using hadmit 0 (by omega)) v
    simp only [State.writeBlock, hfirst, List.take_succ_cons]
    refine ih (by simpa using hk) (fun j hj => ?_) ?_
    · rw [State.storeBytes_settings, word_succ]
      exact hadmit (j + 1) (by omega)
    · rw [State.storeBytes_settings, word_succ]
      exact habort

theorem splitWord_getElem? (bigend : Bool) (v : Word) {j : Nat} (hj : j < 4) :
    (splitWord bigend v)[j]? = some (byteOf bigend 4 v.toNat j) := by
  rw [splitWord_eq]
  obtain rfl | rfl | rfl | rfl : j = 0 ∨ j = 1 ∨ j = 2 ∨ j = 3 := by omega
  all_goals rfl

/-- A block write that is not aborted makes memory hold each word. -/
theorem State.holds_writeBlock (hn : 4 * vs.length ≤ 2 ^ 32) (hok : (s.writeBlock privileged a vs).2 = false) {k : Nat}
    {v : Word} (hk : vs[k]? = some v) :
    (s.writeBlock privileged a vs).1.holds (alignWord a + BitVec.ofNat 32 (4 * k)) 4 v.toNat := by
  refine (State.holds_def _ _ _ _).mpr ⟨v.isLt, fun j hj => ?_⟩
  rw [address_add, State.writeBlock_settings]
  exact State.byte_writeBlock hn hok hk (splitWord_getElem? _ v hj)

/-- A block write touches the bytes of its words. -/
theorem sameBut_writeBlock (s : State) (privileged : Bool) (a : Word) (vs : List Word) :
    SameBut [] 0 (bytesAt (alignWord a) (4 * vs.length)) s (s.writeBlock privileged a vs).1 :=
  ⟨fun r _ => by simp, by simp, fun m => by simp, fun _ hb => State.byte_writeBlock_outside hb, by simp, by simp, by simp,
    by simp, by simp⟩

end

/-! ### When they abort -/

section
variable {s : State} {i : Instr} {c : Cond} {m : Address} {unit n : Nat} {stored : Nat → Word → Prop}

theorem ReadsWords.misaligned_aborts (h : ReadsWords s i c m unit n) (hwf : i.wf = true)
    (hc : Cond.holds c s.cpsr = true) (hal : s.settings.alignFault = true) (h0 : m.start.toNat % unit ≠ 0)
    (hfit : sequenceFits m unit n) : exec i s = dataAbort s m.writeBack := by
  obtain ⟨rfl, k, hexec⟩ | ⟨rfl, -, rd, hexec⟩ := h.exec_eq hwf hc
  · exact hexec.trans (loadBlock_misaligned hal h0 hfit.1)
  · exact hexec.trans (loadDouble_misaligned hal h0 (hfit.2 rfl))

/-- A sequence that is let by is read, whatever is done with its words. -/
theorem ReadsWords.exec_of_aligned (h : ReadsWords s i c m unit n) (hwf : i.wf = true) (hc : Cond.holds c s.cpsr = true)
    (hfit : sequenceFits m unit n) (hal : s.aligned m unit) :
    ∃ k, exec i s = (s.readBlock s.privileged m.start n).andThen s m.writeBack k := by
  obtain ⟨rfl, k, hexec⟩ | ⟨rfl, rfl, rd, hexec⟩ := h.exec_eq hwf hc
  · exact ⟨k, hexec.trans (loadBlock_of_aligned (hal.imp_right And.right) hfit.1)⟩
  · exact ⟨_, hexec.trans (loadDouble_of_aligned (hal.resolve_right (by simp)))⟩

theorem ReadsWords.exec_of_aborts (h : ReadsWords s i c m unit n) (hwf : i.wf = true) (hc : Cond.holds c s.cpsr = true)
    (hfit : sequenceFits m unit n) (hal : s.aligned m unit) {vs : List Word} (hlt : vs.length < n)
    (hadmit : s.admits .read m.start vs.length) (hholds : s.holdsWords m.start vs)
    (hr : s.settings.aborts .read s.privileged 4 (alignWord (m.start + BitVec.ofNat 32 (4 * vs.length))) = true) :
    exec i s = dataAbort s m.writeBack := by
  obtain ⟨k, hexec⟩ := h.exec_of_aligned hwf hc hfit hal
  rw [hexec, State.readBlock_abort hlt (fun _ _ => State.readWord_of_holdsWords hadmit hholds) hr]
  rfl

theorem WritesWords.misaligned_aborts (h : WritesWords s i c m unit n stored) (hwf : i.wf = true)
    (hc : Cond.holds c s.cpsr = true) (hal : s.settings.alignFault = true) (h0 : m.start.toNat % unit ≠ 0)
    (hfit : sequenceFits m unit n) : ∃ free, exec i s = dataAbort (s.useFree free) m.writeBack := by
  obtain ⟨free, vs, rfl, -, ⟨rfl, hexec⟩ | ⟨rfl, rd, -, hexec⟩⟩ := h.exec_eq hwf hc
  · exact ⟨free, hexec.trans (storeBlock_misaligned hal h0 hfit.1)⟩
  · exact ⟨free, hexec.trans (storeDouble_misaligned hal h0 (hfit.2 rfl))⟩

/-- A sequence that is let by is written. -/
theorem WritesWords.exec_of_aligned (h : WritesWords s i c m unit n stored) (hwf : i.wf = true)
    (hc : Cond.holds c s.cpsr = true) (hfit : sequenceFits m unit n) (hal : s.aligned m unit) :
    ∃ free vs, vs.length = n ∧ (∀ j v, j < n → stored j v → vs[j]? = some v) ∧
      exec i s = finishBlock ((s.useFree free).writeBlock s.privileged m.start vs) m.writeBack := by
  obtain ⟨free, vs, rfl, hvs, ⟨rfl, hexec⟩ | ⟨rfl, rd, rfl, hexec⟩⟩ := h.exec_eq hwf hc
  · exact ⟨free, vs, rfl, hvs, hexec.trans (storeBlock_of_aligned (hal.imp_right And.right) hfit.1)⟩
  · exact ⟨free, _, rfl, hvs, hexec.trans (storeDouble_of_aligned (hal.resolve_right (by simp)))⟩

/-- The words of a sequence below the one refused are stored, and the Data Abort is taken after them. -/
theorem WritesWords.exec_of_aborts (h : WritesWords s i c m unit n stored) (hwf : i.wf = true)
    (hc : Cond.holds c s.cpsr = true) (hfit : sequenceFits m unit n) (hal : s.aligned m unit) {k : Nat} (hk : k < n)
    (hadmit : s.admits .write m.start k)
    (hr : s.settings.aborts .write s.privileged 4 (alignWord (m.start + BitVec.ofNat 32 (4 * k))) = true) :
    ∃ u, (∀ j v, j < k → stored j v → u.holds (alignWord m.start + BitVec.ofNat 32 (4 * j)) 4 v.toNat) ∧ u.pc = s.pc ∧
      SameBut [] 0 (bytesAt (alignWord m.start) (4 * k)) s u ∧ exec i s = dataAbort u m.writeBack := by
  obtain ⟨free, vs, rfl, hvs, hexec⟩ := h.exec_of_aligned hwf hc hfit hal
  have hlen : (vs.take k).length = k := List.length_take_of_le hk.le
  have hok : ((s.useFree free).writeBlock s.privileged m.start (vs.take k)).2 = false :=
    State.writeBlock_admitted fun j hj => hadmit j (hlen ▸ hj)
  refine ⟨((s.useFree free).writeBlock s.privileged m.start (vs.take k)).1, fun j v hj hv => ?_, by simp, ?_, ?_⟩
  · refine State.holds_writeBlock ?_ hok ?_
    · rw [hlen]
      have := hfit.1
      omega
    · rw [List.getElem?_take_of_lt hj]
      exact hvs j v (hj.trans hk) hv
  · have hframe := sameBut_writeBlock (s.useFree free) s.privileged m.start (vs.take k)
    rwa [hlen] at hframe
  · have hwritten := State.writeBlock_abort (s := s.useFree free) hk hadmit hr
    exact hexec.trans (congrArg (finishBlock · m.writeBack) hwritten)

end

/-! ## The statements -/

/-- Settles O46: every family's operation looks at the alignment before it does anything else. -/
theorem alignmentFaultsAbort : Obligations.AlignmentFaultsAbort := by
  intro s i c m hal hwf hc aborts
  refine ⟨fun privileged rd hi h0 => ?_, fun privileged rd n signed hi h0 hfit => ?_, fun privileged n v hi h0 hfit => ?_,
    fun a rd n signed hi h0 hfit => ?_, fun a rd n hi h0 hfit => ?_, fun a hi h0 => ?_, fun unit n hi h0 hfit => ?_,
    fun unit n stored hi h0 hfit => ?_⟩
  · exact gives_of_dataAbort ((hi.exec_eq hwf hc).trans (loadWord_misaligned hal h0))
  · exact gives_of_dataAbort (hi.misaligned_aborts hwf hc hal h0 hfit)
  · exact gives_of_dataAbort (hi.misaligned_aborts hwf hc hal h0 hfit)
  · exact gives_of_dataAbort_none (hi.misaligned_aborts hal h0 hfit)
  · exact gives_of_dataAbort_none (hi.misaligned_aborts hal h0 hfit)
  · exact gives_of_dataAbort_none (hi.misaligned_aborts hwf hc hal h0)
  · exact gives_of_dataAbort (hi.misaligned_aborts hwf hc hal h0 hfit)
  · obtain ⟨free, hexec⟩ := hi.misaligned_aborts hwf hc hal h0 hfit
    exact gives_of_dataAbort_useFree hexec

/-- Settles O47: the access that is refused is the first that does not succeed, and its operation ends there. -/
theorem abortedTransfersTakeDataAbort : Obligations.AbortedTransfersTakeDataAbort := by
  intro s i c m hwf hc aborts refuses word
  refine ⟨fun privileged rd hi hal hr => ?_, fun privileged rd n signed hi hal hr => ?_,
    fun privileged n v hi hn hal hr => ?_, fun privileged v hi hal hr => ?_, fun a rd n hs hal => ⟨fun signed hi hr => ?_,
    fun hi hr => ?_⟩, fun a n hi hal => ?_, fun unit n vs hi hfit hal hlt hadmit hholds hr => ?_,
    fun unit n k stored hi hfit hal hk hadmit hr => ?_⟩
  · exact gives_of_dataAbort ((hi.exec_eq hwf hc).trans (loadWord_of_aborts hal hr))
  · exact gives_of_dataAbort (hi.exec_of_aborts hwf hc hal hr)
  · exact gives_of_dataAbort (hi.exec_of_aborts hwf hc hn hal hr)
  · exact gives_of_dataAbort ((hi.exec_word hwf hc).trans (storeWord_of_aborts hal hr))
  · exact gives_of_dataAbort_none (hi.exec_of_aborts hs hal hr)
  · exact gives_of_dataAbort_none (hi.exec_of_aborts hal hr)
  · exact fun hr => gives_of_dataAbort_none (hi.exec_of_aborts hwf hc hal
      (hr.imp_right fun ⟨hread, hheld, hwrite⟩ => ⟨Bool.eq_false_iff.mpr hread, hheld, hwrite⟩))
  · exact gives_of_dataAbort (hi.exec_of_aborts hwf hc hfit hal hlt hadmit hholds hr)
  · obtain ⟨u, hstored, hpc, hframe, hexec⟩ := hi.exec_of_aborts hwf hc hfit hal hk hadmit hr
    exact ⟨u, hstored, hpc, hframe, gives_of_dataAbort hexec⟩

end Sys2Proof.Machine

/-! SUPPORT AND PROOFS of the statements about execution and operands: the conditions and what a failed one does, the exceptions of
an instruction boundary, and the shifter in arithmetic, where a shift by an immediate is a shift by some amount of a register. -/

namespace Sys2Proof.Machine

/-! ## Conditions -/

/-- Settles O6: each condition is a formula over the four flags, read as a proposition. -/
theorem conditionsTestTheFlags : Obligations.ConditionsTestTheFlags := by
  intro p n z c v
  refine ⟨Iff.rfl, ?ne, Iff.rfl, ?cc, Iff.rfl, ?pl, Iff.rfl, ?vc, ?hi, ?ls, ?ge, ?lt, ?gt, ?le, ?al⟩
  all_goals simp [Cond.holds, Psr.n, Psr.z, Psr.c, Psr.v, n, z, c, v]

/-! ## Failed conditions -/

/-- The instruction runs on condition `c`: its meaning begins with the test of `c`. -/
def RunsOn (c : Cond) (i : Instr) : Prop := ∀ s : State, ∃ r, exec i s = onCondition i c s r

/-- A well-formed instruction whose condition fails only advances (R170 item 6). -/
theorem RunsOn.exec_of_fails {c : Cond} {i : Instr} {s : State} (h : RunsOn c i) (hwf : i.wf = true)
    (hc : Cond.holds c s.cpsr = false) (hroom : s.hasRoom) : exec i s = .next (s.setPc s.nextPc) := by
  obtain ⟨r, hr⟩ := h s
  rw [hr, onCondition_of_fails hwf hc, advance_of_room hroom]

/-- Every row of the decoder's tables of the words that begin 000 after the condition runs on the condition. -/
theorem runsOn_decodeGroup0 (c : Cond) (w : Word) : RunsOn c (decodeGroup0 c w) := by
  unfold decodeGroup0 decodeMultiply decodeExtra decodeDspMultiply decodeMisc decodeRegShift decodeImmShift
  repeat' split
  all_goals exact fun s => ⟨_, rfl⟩

/-- Every row of the decoder's tables of the words with a condition runs on the condition. -/
theorem runsOn_decodeCond (c : Cond) (w : Word) : RunsOn c (decodeCond c w) := by
  unfold decodeCond decodeGroup1 decodeDpImm decodeGroup2 decodeGroup3 decodeGroup4 decodeGroup5 decodeGroup6 decodeGroup7
  split
  · exact runsOn_decodeGroup0 c w
  all_goals
    repeat' split
    all_goals exact fun s => ⟨_, rfl⟩

/-- A word whose bits [31:28] are a condition runs on it. -/
theorem runsOn_decodeArm {w : Word} {c : Cond} (h : Cond.ofBits? (w.extractLsb' 28 4) = some c) :
    RunsOn c (decodeArm w) := by
  rw [decodeArm, h]
  exact runsOn_decodeCond c w

theorem State.nextPc_arm {s : State} (h : s.thumb = false) : s.nextPc = s.pc + 4 := by
  rw [State.nextPc, State.width, h]
  rfl

theorem State.nextPc_thumb {s : State} (h : s.thumb = true) : s.nextPc = s.pc + 2 := by
  rw [State.nextPc, State.width, h]
  rfl

/-- Settles O5: a word runs on the condition it codes, and B(1) on its own. -/
theorem failedConditionOnlyAdvances : Obligations.FailedConditionOnlyAdvances := by
  refine ⟨fun w c s hbits hc hwf hs => ?_, fun c imm8 s hal hc hs => ?_⟩
  · rw [(runsOn_decodeArm hbits).exec_of_fails hwf hc hs.2, State.nextPc_arm hs.1]
    rfl
  · have hruns : RunsOn c (.tB1 c imm8) := fun _ => ⟨_, rfl⟩
    rw [hruns.exec_of_fails (by simpa [Instr.wf] using hal) hc hs.2, State.nextPc_thumb hs.1]
    rfl

/-! ## Instruction boundaries -/

theorem State.pending_of_fiq {s : State} (hreset : s.lines.reset = false) (hfiq : s.lines.fiq = true)
    (hf : Psr.f s.cpsr = false) : s.pending = some .fiq := by
  simp [State.pending, hreset, hfiq, hf]

theorem State.pending_of_irq {s : State} (hreset : s.lines.reset = false)
    (hfiq : s.lines.fiq = false ∨ Psr.f s.cpsr = true) (hirq : s.lines.irq = true) (hi : Psr.i s.cpsr = false) :
    s.pending = some .irq := by
  have hf : (s.lines.fiq && !Psr.f s.cpsr) = false := by rcases hfiq with h | h <;> simp [h]
  simp [State.pending, hreset, hf, hirq, hi]

theorem State.fetch_of_aborts {s : State} (hpc : s.pcAligned = true)
    (h : s.settings.aborts .fetch s.privileged s.width s.pc = true) : s.fetch = .abort := by
  simp [State.fetch, hpc, h]

/-- A step with an exception pending takes it. -/
theorem step_of_pending {s : State} {e : Exception} (h : s.pending = some e) :
    step s = .next (takeException e s.nextInputs) := by
  rw [step, h]

/-- Settles O15: the inputs come before the fetch, and the entry is that of every exception but Reset. -/
theorem boundaryEventsTakeTheirExceptions : Obligations.BoundaryEventsTakeTheirExceptions := by
  refine fun s => ⟨fun hreset hfiq hf => ?_, fun hreset hfiq hirq hi => ?_, fun hpending hpc h => ?_⟩
  · exact ⟨_, step_of_pending (State.pending_of_fiq hreset hfiq hf), entered_takeException (by decide) _⟩
  · exact ⟨_, step_of_pending (State.pending_of_irq hreset hfiq hirq hi), entered_takeException (by decide) _⟩
  · refine ⟨_, ?_, entered_takeException (by decide) _⟩
    rw [step, hpending, State.fetch_nextInputs, State.fetch_of_aborts hpc h]

/-! ## Shifts as arithmetic -/

theorem shiftLeft_eq_ofNat (v : Word) (k : Nat) : v <<< k = BitVec.ofNat 32 (v.toNat * 2 ^ k) := by
  rw [← Nat.shiftLeft_eq]
  rfl

theorem shiftRight_eq_ofNat (v : Word) (k : Nat) : v >>> k = BitVec.ofNat 32 (v.toNat / 2 ^ k) := by
  rw [← Nat.shiftRight_eq_div_pow, ← BitVec.toNat_ushiftRight, BitVec.ofNat_toNat, BitVec.setWidth_eq]

theorem sshiftRight_eq_ofInt (v : Word) (k : Nat) : v.sshiftRight k = BitVec.ofInt 32 (v.toInt.fdiv (2 ^ k)) := by
  rw [BitVec.sshiftRight_eq, Int.shiftRight_eq_div_pow, Int.fdiv_eq_ediv_of_nonneg _ (by positivity)]
  norm_cast

/-- The bit of a number that a division by a power of two makes the lowest. -/
theorem getLsbD_eq_decide (v : Word) (k : Nat) : v.getLsbD k = decide (v.toNat / 2 ^ k % 2 = 1) :=
  Nat.testBit_eq_decide_div_mod_eq

theorem getLsbD_zero_eq_decide (v : Word) : v.getLsbD 0 = decide (v.toNat % 2 = 1) := by
  rw [getLsbD_eq_decide, pow_zero, Nat.div_one]

/-- The bit that leaves a word shifted left, if it is one of the word's. -/
theorem carry_shiftLeft (v : Word) (k : Nat) :
    decide (v.toNat * 2 ^ k / 2 ^ 32 % 2 = 1) = (decide (k ≤ 32) && v.getLsbD (32 - k)) := by
  rw [← Nat.testBit_eq_decide_div_mod_eq, Nat.testBit_mul_two_pow]
  rfl

/-- The lowest bit of an integer, from its word. -/
theorem getLsbD_ofInt_zero (n : Int) : (BitVec.ofInt 32 n).getLsbD 0 = decide (n % 2 = 1) := by
  rw [getLsbD_eq_decide, BitVec.toNat_ofInt]
  exact decide_eq_decide.mpr (by omega)

/-- The bit that leaves a word shifted right arithmetically: past its top it is the sign. -/
theorem carry_sshiftRight (v : Word) (k : Nat) :
    decide (v.toInt.fdiv (2 ^ k) % 2 = 1) = v.getLsbD (min k 31) := by
  rw [← getLsbD_ofInt_zero, ← sshiftRight_eq_ofInt, BitVec.getLsbD_sshiftRight, BitVec.msb_eq_getLsbD_last]
  split_ifs with h
  · rw [min_eq_left (by omega)]
    rfl
  · rw [min_eq_right (by omega)]
    rfl

/-- An arithmetic shift by 32 or more leaves the sign in every bit. -/
theorem sshiftRight_of_le {v : Word} {k : Nat} (h : 32 ≤ k) :
    v.sshiftRight k = if v.getLsbD 31 then 0xFFFFFFFF else 0 := by
  apply BitVec.eq_of_getLsbD_eq
  intro i hi
  rw [BitVec.getLsbD_sshiftRight, if_neg (by omega), BitVec.msb_eq_getLsbD_last]
  cases v.getLsbD 31 with
  | false => simp
  | true =>
    revert i
    decide

theorem getLsbD_ror (v : Word) (n : Nat) {i : Nat} (hi : i < 32) : (ror v n).getLsbD i = v.getLsbD ((i + n) % 32) := by
  rw [ror, BitVec.getLsbD_rotateRight]
  by_cases h : i < 32 - n % 32
  · rw [decide_eq_true h, cond_true, show n % 32 + i = (i + n) % 32 by omega]
  · rw [decide_eq_false h, cond_false, decide_eq_true hi, Bool.true_and,
      show i - (32 - n % 32) = (i + n) % 32 by omega]

theorem ror_mod (v : Word) (n : Nat) : ror v (n % 32) = ror v n := BitVec.rotateRight_mod_eq_rotateRight

/-- A word halved with a one coming in at its top. -/
theorem top_or_half_eq_ofNat (v : Word) : 0x80000000 ||| v >>> 1 = BitVec.ofNat 32 ((v.toNat + 2 ^ 32) / 2) := by
  have hhalf : (v >>> 1).toNat = v.toNat / 2 := by rw [BitVec.toNat_ushiftRight, Nat.shiftRight_eq_div_pow, pow_one]
  have hlow : (v >>> 1).toNat < 2 ^ 31 := by omega
  apply BitVec.eq_of_toNat_eq
  calc (0x80000000 ||| v >>> 1).toNat
      = 2 ^ 31 * 1 ||| (v >>> 1).toNat := BitVec.toNat_or _ _
    _ = 2 ^ 31 * 1 + (v >>> 1).toNat := (Nat.two_pow_add_eq_or_of_lt hlow 1).symm
    _ = (BitVec.ofNat 32 ((v.toNat + 2 ^ 32) / 2)).toNat := by
      rw [hhalf, BitVec.toNat_ofNat]
      omega

/-! ## Shifts by a register -/

section
variable (v : Word) {amount : BitVec 8} (c : Bool)

theorem shiftByReg_zero (sh : Shift) (h : amount.toNat = 0) : shiftByReg sh v amount c = ⟨v, c⟩ := by
  cases sh <;> exact if_pos h

variable (h : amount.toNat ≠ 0)
include h

/-- LSL (R181): a word shifted left by 32 or more is zero. -/
theorem shiftByReg_lsl :
    shiftByReg .lsl v amount c =
      ⟨BitVec.ofNat 32 (v.toNat * 2 ^ amount.toNat), decide (v.toNat * 2 ^ amount.toNat / 2 ^ 32 % 2 = 1)⟩ := by
  rw [carry_shiftLeft, ← shiftLeft_eq_ofNat]
  simp only [shiftByReg, if_neg h]
  split_ifs with hlt heq
  · rw [decide_eq_true (by omega), Bool.true_and]
  · rw [heq, BitVec.shiftLeft_eq_zero (le_refl 32)]
    rfl
  · rw [decide_eq_false (by omega), BitVec.shiftLeft_eq_zero (by omega)]
    rfl

/-- LSR (R182): a word has no bits above its top, and shifted right by 32 or more it is zero. -/
theorem shiftByReg_lsr :
    shiftByReg .lsr v amount c =
      ⟨BitVec.ofNat 32 (v.toNat / 2 ^ amount.toNat), decide (v.toNat / 2 ^ (amount.toNat - 1) % 2 = 1)⟩ := by
  rw [← getLsbD_eq_decide, ← shiftRight_eq_ofNat]
  simp only [shiftByReg, if_neg h]
  split_ifs with hlt heq
  · rfl
  · rw [heq, BitVec.ushiftRight_eq_zero (le_refl 32)]
    rfl
  · rw [BitVec.getLsbD_of_ge v _ (by omega), BitVec.ushiftRight_eq_zero (by omega)]
    rfl

/-- ASR (R183): past the top of a word every bit is its sign. -/
theorem shiftByReg_asr :
    shiftByReg .asr v amount c =
      ⟨BitVec.ofInt 32 (v.toInt.fdiv (2 ^ amount.toNat)), decide (v.toInt.fdiv (2 ^ (amount.toNat - 1)) % 2 = 1)⟩ := by
  rw [carry_sshiftRight, ← sshiftRight_eq_ofInt]
  simp only [shiftByReg, if_neg h]
  by_cases hlt : amount.toNat < 32
  · rw [if_pos hlt, min_eq_left (by omega)]
  · rw [if_neg hlt, min_eq_right (by omega), sshiftRight_of_le (by omega)]

/-- ROR (R184): a rotation by a multiple of 32 changes nothing. -/
theorem shiftByReg_ror :
    shiftByReg .ror v amount c = ⟨ror v amount.toNat, v.getLsbD ((amount.toNat + 31) % 32)⟩ := by
  simp only [shiftByReg, if_neg h]
  split_ifs with hmod
  · rw [show (amount.toNat + 31) % 32 = 31 by omega, ← ror_mod v amount.toNat, hmod, ror_zero]
  · rw [ror_mod, show (amount.toNat + 31) % 32 = amount.toNat % 32 - 1 by omega]

end

/-- Settles O21: each shift is one formula for all amounts but 0. -/
theorem registerShiftsCompute : Obligations.RegisterShiftsCompute := by
  intro v amount c k
  refine ⟨fun h sh => shiftByReg_zero v c sh h,
    fun h => ⟨shiftByReg_lsl v c h, shiftByReg_lsr v c h, shiftByReg_asr v c h, ?_⟩⟩
  rw [shiftByReg_ror v c h]
  exact ⟨rfl, fun i hi => getLsbD_ror v _ hi⟩

/-! ## Rotated immediates and shifts by an immediate -/

theorem getLsbD_rotatedImmediate (rotate : BitVec 4) (imm8 : BitVec 8) {i : Nat} (hi : i < 32) :
    (rotatedImmediate rotate imm8).getLsbD i = imm8.getLsbD ((i + 2 * rotate.toNat) % 32) := by
  rw [rotatedImmediate, getLsbD_ror _ _ hi, BitVec.getLsbD_setWidth, decide_eq_true (Nat.mod_lt _ (by decide)),
    Bool.true_and]

/-- The amount that an immediate stands for: 0 is 32, but not in LSL (R178, R179). -/
def immAmount (sh : Shift) (n : BitVec 5) : BitVec 8 := if n.toNat = 0 ∧ sh ≠ .lsl then 32 else n.setWidth 8

theorem immAmount_toNat (sh : Shift) (n : BitVec 5) :
    (immAmount sh n).toNat = if n.toNat = 0 ∧ sh ≠ .lsl then 32 else n.toNat := by
  rw [immAmount, apply_ite BitVec.toNat, BitVec.toNat_setWidth_of_le (by decide)]
  rfl

/-- A shift by an immediate, RRX apart, is a shift by the amount that the immediate stands for. -/
theorem shiftByImm_eq_shiftByReg {sh : Shift} {n : BitVec 5} (h : sh ≠ .ror ∨ n.toNat ≠ 0) (v : Word) (c : Bool) :
    shiftByImm sh v n c = shiftByReg sh v (immAmount sh n) c := by
  by_cases hn : n = 0
  · subst hn
    cases sh with
    | lsl | lsr | asr => rfl
    | ror => exact absurd rfl (h.resolve_left (not_not.mpr rfl))
  · have hlt : n.toNat < 32 := n.isLt
    have hpos : n.toNat ≠ 0 := fun h0 => hn (BitVec.eq_of_toNat_eq h0)
    have hamount : (immAmount sh n).toNat = n.toNat := by rw [immAmount_toNat, if_neg fun h0 => hpos h0.1]
    cases sh <;> simp only [shiftByImm, shiftByReg, hamount, hn, hpos, hlt, Nat.mod_eq_of_lt, if_true, if_false]

/-- RRX (R180): the carry comes in above the word, which is then halved. -/
theorem shiftByImm_rrx (v : Word) (c : Bool) :
    shiftByImm .ror v 0 c =
      ⟨BitVec.ofNat 32 ((v.toNat + if c then 2 ^ 32 else 0) / 2), decide (v.toNat % 2 = 1)⟩ := by
  rw [← getLsbD_zero_eq_decide]
  cases c with
  | false => exact congrArg (Operand2.mk · _) (BitVec.zero_or.trans (shiftRight_eq_ofNat v 1))
  | true => exact congrArg (Operand2.mk · _) (top_or_half_eq_ofNat v)

/-- Settles O20: an immediate stands for an amount, and RRX is a case of its own. -/
theorem immediateOperandsCompute : Obligations.ImmediateOperandsCompute := by
  constructor
  · intro rotate imm8 c o
    exact ⟨fun i hi => getLsbD_rotatedImmediate rotate imm8 hi, rfl⟩
  intro v n c k k32
  have hlsl : (immAmount .lsl n).toNat = k := by simp [immAmount_toNat, k]
  have hlsr : (immAmount .lsr n).toNat = k32 := by simp [immAmount_toNat, k, k32]
  have hasr : (immAmount .asr n).toNat = k32 := by simp [immAmount_toNat, k, k32]
  have hk32 : k32 ≠ 0 := by
    unfold k32
    split_ifs with hk
    · decide
    · exact hk
  refine ⟨?lsl, ?lsr, ?asr, ?rrx, ?ror⟩
  case lsl =>
    rw [shiftByImm_eq_shiftByReg (.inl (by decide))]
    split_ifs with hk
    · exact shiftByReg_zero v c .lsl (hlsl.trans hk)
    · rw [shiftByReg_lsl v c (hlsl ▸ hk), hlsl]
  case lsr => rw [shiftByImm_eq_shiftByReg (.inl (by decide)), shiftByReg_lsr v c (hlsr ▸ hk32), hlsr]
  case asr => rw [shiftByImm_eq_shiftByReg (.inl (by decide)), shiftByReg_asr v c (hasr ▸ hk32), hasr]
  case rrx =>
    intro hk
    obtain rfl : n = 0 := BitVec.eq_of_toNat_eq hk
    exact shiftByImm_rrx v c
  case ror =>
    intro hk
    have hror : (immAmount .ror n).toNat = k := by simp [immAmount_toNat, k, hk]
    rw [shiftByImm_eq_shiftByReg (.inr hk), shiftByReg_ror v c (hror ▸ hk), hror]
    exact ⟨congrArg v.getLsbD (by omega), fun i hi => getLsbD_ror v k hi⟩

end Sys2Proof.Machine

/-! SUPPORT AND PROOFS of the statements about PLD, CLZ, BX and BLX with a register. First the layer: what the count of leading
zeros says of the bits of its argument, and the frame of a branch that chooses the instruction set. -/

namespace Sys2Proof.Machine

/-! ## PLD -/

/-- Settles O29: both forms are an advance, once their bits are checked. -/
theorem preloadOnlyAdvances : Obligations.PreloadOnlyAdvances := by
  intro s hs
  have hadvance : advance s = .next { s with pc := s.pc + 4 } := advance_of_armReady hs rfl rfl
  refine ⟨fun u rn imm12 => ?_, fun u rn n sh rm hrm => ?_⟩
  · exact (always_of_wf (i := .pldImm u rn imm12) rfl _).trans hadvance
  · exact (always_of_wf (i := .pldReg u rn n sh rm) (bne_iff_ne.mpr hrm) _).trans hadvance

/-! ## CLZ -/

theorem toNat_countLeadingZeros_zero : (countLeadingZeros 0).toNat = 32 := rfl

/-- The highest 1 bit of a word has a number below 32. -/
theorem log2_toNat_lt {v : Word} (hv : v ≠ 0) : v.toNat.log2 < 32 :=
  (Nat.log2_lt (BitVec.toNat_ne_iff_ne.mpr hv)).mpr v.isLt

theorem toNat_countLeadingZeros {v : Word} (hv : v ≠ 0) : (countLeadingZeros v).toNat = 31 - v.toNat.log2 := by
  rw [countLeadingZeros, if_neg hv, BitVec.toNat_ofNat]
  omega

theorem countLeadingZeros_le (v : Word) : (countLeadingZeros v).toNat ≤ 32 := by
  by_cases hv : v = 0
  · rw [hv, toNat_countLeadingZeros_zero]
  · rw [toNat_countLeadingZeros hv]
    omega

/-- The bits counted are above the highest 1 bit. -/
theorem getLsbD_of_lt_countLeadingZeros {v : Word} {k : Nat} (hk : k < (countLeadingZeros v).toNat) :
    v.getLsbD (31 - k) = false := by
  by_cases hv : v = 0
  · rw [hv]
    exact BitVec.getLsbD_zero
  · rw [toNat_countLeadingZeros hv] at hk
    have habove : v.toNat.log2 < 31 - k := by omega
    exact Nat.testBit_lt_two_pow ((Nat.log2_lt (BitVec.toNat_ne_iff_ne.mpr hv)).mp habove)

/-- The count stops at the highest 1 bit, if there is one. -/
theorem getLsbD_countLeadingZeros {v : Word} (h : (countLeadingZeros v).toNat < 32) :
    v.getLsbD (31 - (countLeadingZeros v).toNat) = true := by
  have hv : v ≠ 0 := by
    rintro rfl
    exact absurd h (by decide)
  have hlog := log2_toNat_lt hv
  have hstop : 31 - (countLeadingZeros v).toNat = v.toNat.log2 := by
    rw [toNat_countLeadingZeros hv]
    omega
  rw [hstop]
  exact Nat.testBit_log2 (BitVec.toNat_ne_iff_ne.mpr hv)

/-- Settles O28: the register holds the count, and the bits above and at the highest 1 bit are as the count says. -/
theorem clzCountsLeadingZeros : Obligations.ClzCountsLeadingZeros := by
  intro c rd rm s hwf hc hs
  have hrd : rd ≠ 15 := by
    simp only [Instr.wf, notPc, Bool.and_eq_true, bne_iff_ne] at hwf
    tauto
  refine ⟨_, (onCondition_of_holds hwf hc _).trans (advance_of_armReady hs (by simp) (by simp)), ?_⟩
  beta_reduce
  rw [State.x_setPc _ _ hrd, State.x_setX_same _ _ hrd]
  exact ⟨countLeadingZeros_le _, fun _ => getLsbD_of_lt_countLeadingZeros, getLsbD_countLeadingZeros, rfl,
    (SameBut.refl.setX rd _ (by simp)).setPc _⟩

/-! ## BX and BLX -/

section
variable {s : State} {v : Word}

/-- BX: the target chooses the pc and T. This is the end of a load of the pc that writes no base. -/
theorem branchExchange_gives (h : lowTwo v ≠ 0b10) :
    gives (branchExchange s v) fun t =>
      (t.thumb = v.getLsbD 0 ∧ t.pc = v &&& 0xFFFFFFFE) ∧ SameBut [] tBit noBytes s t := by
  obtain ⟨t, ht, hthumb, hpc, -, hframe⟩ := branchExchange_writeBack_gives (s := s) (m := ⟨v, none⟩) (by simp) h
  exact ⟨t, ht, ⟨hthumb, hpc⟩, hframe⟩

/-- BLX: the link is written besides. This is the end of a load of the pc whose base is the link register. -/
theorem branchExchange_link_gives (h : lowTwo v ≠ 0b10) (link : Word) :
    gives (branchExchange (s.setX 14 link) v) fun t =>
      t.x 14 = link ∧ (t.thumb = v.getLsbD 0 ∧ t.pc = v &&& 0xFFFFFFFE) ∧ SameBut [s.phys 14] tBit noBytes s t := by
  obtain ⟨t, ht, hthumb, hpc, hlink, hframe⟩ :=
    branchExchange_writeBack_gives (s := s) (m := ⟨v, some (14, link)⟩) (by simp) h
  exact ⟨t, ht, hlink 14 link rfl, ⟨hthumb, hpc⟩, hframe⟩

theorem branchExchange_refused (h : lowTwo v = 0b10) : branchExchange s v = .refused .unpredictableTarget := if_pos h

end

/-- Settles O31: each form is the branch to the value its register holds before the link is written. -/
theorem branchExchangeSwitchesInstructionSet : Obligations.BranchExchangeSwitchesInstructionSet := by
  intro c rm h2 r s high goes
  have hbx (hc : Cond.holds c s.cpsr = true) : exec (.bx c 0xFFF rm) s = branchExchange s (s.x rm) :=
    onCondition_of_holds (i := .bx c 0xFFF rm) rfl hc _
  have hblx (hc : Cond.holds c s.cpsr = true) (hrm : rm ≠ 15) :
      exec (.blxReg c 0xFFF rm) s = branchExchange (s.setX 14 (s.pc + 4)) (s.x rm) :=
    onCondition_of_holds (i := .blxReg c 0xFFF rm) (bne_iff_ne.mpr hrm) hc _
  have htBx : exec (.tBx h2 r 0) s = branchExchange s (s.x high) := always_of_wf (i := .tBx h2 r 0) rfl _
  have htBlx2 (hhigh : high ≠ 15) :
      exec (.tBlx2 h2 r 0) s = branchExchange (s.setX 14 ((s.pc + 2) ||| 1)) (s.x high) :=
    always_of_wf (i := .tBlx2 h2 r 0) (bne_iff_ne.mpr hhigh) _
  refine ⟨fun _ hc htwo => ⟨?_, fun hrm => ?_⟩, fun _ htwo => ⟨?_, fun hhigh => ?_⟩,
    fun htwo hc => ⟨?_, fun hrm => ?_⟩, fun htwo => ⟨?_, fun hhigh => ?_⟩⟩
  · rw [hbx hc]
    exact branchExchange_gives htwo
  · rw [hblx hc hrm]
    exact branchExchange_link_gives htwo _
  · rw [htBx]
    exact branchExchange_gives htwo
  · rw [htBlx2 hhigh]
    exact branchExchange_link_gives htwo _
  · exact (hbx hc).trans (branchExchange_refused htwo)
  · exact (hblx hc hrm).trans (branchExchange_refused htwo)
  · exact htBx.trans (branchExchange_refused htwo)
  · exact (htBlx2 hhigh).trans (branchExchange_refused htwo)

end Sys2Proof.Machine

/-! SUPPORT AND PROOFS of the statements about saturating arithmetic. First the layer: saturation in arithmetic, and the state
after a result is written beside the sticky Q. -/

namespace Sys2Proof.Machine

/-! ## Saturation in arithmetic -/

/-- `SignedSat32` clamps to the range of a signed word (R10). -/
theorem toInt_signedSat32 (n : Int) : (signedSat32 n).toInt = max (-2 ^ 31) (min (2 ^ 31 - 1) n) := by
  unfold signedSat32
  split
  case isTrue hlow =>
    have hmin : (0x80000000 : Word).toInt = -2 ^ 31 := rfl
    omega
  case isFalse hlow =>
    split
    case isTrue hhigh =>
      have hmax : (0x7FFFFFFF : Word).toInt = 2 ^ 31 - 1 := rfl
      omega
    case isFalse hhigh =>
      rw [BitVec.toInt_ofInt_eq_self (by decide) (by omega) (by omega)]
      omega

/-- A number saturates if clamping changes it. -/
theorem outside32_eq_decide (n : Int) : outside32 n = decide (n ≠ max (-2 ^ 31) (min (2 ^ 31 - 1) n)) := by
  rw [outside32, ← Bool.decide_or]
  exact decide_eq_decide.mpr (by omega)

/-- The doubling saturates on its own, before the sum does (R227). -/
theorem toInt_doubled (v : Word) : (doubled v).toInt = max (-2 ^ 31) (min (2 ^ 31 - 1) (2 * v.toInt)) :=
  toInt_signedSat32 _

/-! ## Results beside the sticky Q -/

theorem State.x_stickyQ (s : State) (sat : Bool) {i : Reg} (hi : i ≠ 15) : (s.stickyQ sat).x i = s.x i :=
  State.x_congr hi (s.stickyQ_mode sat) (s.stickyQ_regs sat)

@[simp] theorem State.stickyQ_thumb (s : State) (sat : Bool) : (s.stickyQ sat).thumb = s.thumb := by
  cases sat with
  | false => rfl
  | true => exact Psr.t_withQ s.cpsr

theorem State.q_stickyQ (s : State) (sat : Bool) :
    Psr.q (s.stickyQ sat).cpsr = true ↔ Psr.q s.cpsr = true ∨ sat = true := by
  cases sat <;> simp

/-- Q is set, if the frame names it. -/
theorem SameBut.stickyQ {regs : List (Option PhysReg)} {touched : Word → Prop} {s u : State}
    (h : SameBut regs qBit touched s u) (sat : Bool) : SameBut regs qBit touched s (u.stickyQ sat) := by
  have ⟨_, hpsr, _⟩ := h
  cases sat with
  | false => exact h
  | true => exact h.setCpsr ((Psr.withQ_outside u.cpsr).trans hpsr)

/-- The end of an instruction that writes a result and may set Q (R224). -/
theorem stickyQ_gives {s : State} (hs : s.armReady) {rd : Reg} (hrd : rd ≠ 15) (v : Word) (sat : Bool) :
    gives (advance ((s.setX rd v).stickyQ sat)) fun t =>
      t.x rd = v ∧ (Psr.q t.cpsr = true ↔ Psr.q s.cpsr = true ∨ sat = true) ∧ t.pc = s.pc + 4 ∧
      SameBut [s.phys rd] qBit noBytes s t := by
  refine ⟨_, advance_of_armReady hs (by simp) (by simp), ?_, ?_, rfl, ?_⟩
  · rw [State.x_setPc _ _ hrd, State.x_stickyQ _ sat hrd, State.x_setX_same _ v hrd]
  · rw [State.setPc_cpsr, State.q_stickyQ, State.setX_cpsr]
  · exact ((SameBut.refl.setX rd v (by simp)).stickyQ sat).setPc _

/-! ## Saturating additions and subtractions -/

section
variable {s : State} {i : Instr} {c : Cond} {rd : Reg} {sum : Int} {before : Bool}

theorem Saturates.rd_ne (h : Saturates s i c rd sum before) (hwf : i.wf = true) : rd ≠ 15 := by
  cases h with
  | qadd | qsub | qdadd | qdsub =>
    simp only [Instr.wf, notPc, Bool.and_eq_true, bne_iff_ne] at hwf
    obtain ⟨⟨-, hrd⟩, -⟩ := hwf
    exact hrd

/-- Each is the write of the sum stated. -/
theorem Saturates.exec_eq (h : Saturates s i c rd sum before) (hwf : i.wf = true) (hc : Cond.holds c s.cpsr = true) :
    exec i s = writeSat s rd sum before := by
  cases h with
  | qadd | qsub => exact onCondition_of_holds hwf hc _
  | qdadd _ rn | qdsub _ rn =>
    rw [← outside32_eq_decide, ← toInt_doubled (s.x rn)]
    exact onCondition_of_holds hwf hc _

end

/-- Settles O34: the register takes the clamped sum, and Q is set if the doubling or the sum was clamped. -/
theorem saturatingArithmeticClamps : Obligations.SaturatingArithmeticClamps := by
  intro s i c rd sum before h hwf hc hs clamped
  obtain ⟨t, ht, hx, hq, hpc, hframe⟩ := stickyQ_gives hs (h.rd_ne hwf) (signedSat32 sum) (before || outside32 sum)
  refine ⟨t, (h.exec_eq hwf hc).trans ht, hx ▸ toInt_signedSat32 sum, ?_, hpc, hframe⟩
  rw [hq, Bool.or_eq_true, outside32_eq_decide, decide_eq_true_iff]

end Sys2Proof.Machine

/-! SUPPORT AND PROOFS of the statements about the multiplies. First the layer: the flags N and Z of a result of any width,
the register pair as one number, and the signed halves in arithmetic. -/

namespace Sys2Proof.Machine

/-! ## N and Z of a result -/

section
variable {w : Nat} {s u : State} (r : BitVec w)

@[simp] theorem Psr.m_nzFlags (p : Word) : Psr.m (nzFlags r p) = Psr.m p := Psr.m_withNZCV p _ _ _ _

@[simp] theorem Psr.t_nzFlags (p : Word) : Psr.t (nzFlags r p) = Psr.t p := Psr.t_withNZCV p _ _ _ _

/-- N is the top bit of the result, which says that the result is in the upper half of its range (R247). -/
theorem nzIn_of_cpsr_eq (hu : u.cpsr = nzFlags r s.cpsr) : NzIn w r.toNat s u := by
  unfold NzIn
  rw [hu, nzFlags, Psr.n_withNZCV, Psr.z_withNZCV, Psr.c_withNZCV, Psr.v_withNZCV, ← BitVec.msb_eq_getLsbD_last,
    BitVec.msb_eq_decide, beq_iff_eq, BitVec.toNat_eq]
  exact ⟨rfl, Iff.rfl, rfl, rfl⟩

/-- N and Z are set, if the frame names the flags. -/
theorem SameBut.setNzFlags {regs : List (Option PhysReg)} {touched : Word → Prop}
    (h : SameBut regs nzcvBits touched s u) : SameBut regs nzcvBits touched s (u.setCpsr (nzFlags r s.cpsr)) :=
  h.setCpsr (Psr.withNZCV_outside s.cpsr _ _ _ _)

/-- The end of a multiply: `u` has the result in its registers, and S puts N and Z of the result beside it (R247). -/
theorem nzFlags_gives (hs : s.armReady) (sf : Bool) {regs : List (Option PhysReg)} (hcpsr : u.cpsr = s.cpsr)
    (hpc : u.pc = s.pc) (hframe : SameBut regs (if sf then nzcvBits else 0) noBytes s u) :
    gives (advance (if sf then u.setCpsr (nzFlags r s.cpsr) else u)) fun t =>
      (∀ i, i ≠ 15 → t.x i = u.x i) ∧ (sf = true → NzIn w r.toNat s t) ∧ t.pc = s.pc + 4 ∧
      SameBut regs (if sf then nzcvBits else 0) noBytes s t := by
  cases sf with
  | false =>
    have hthumb : u.thumb = s.thumb := congrArg Psr.t hcpsr
    exact ⟨_, advance_of_armReady hs hpc hthumb, fun i hi => State.x_setPc u _ hi, nofun, rfl, hframe.setPc _⟩
  | true =>
    have hthumb : (u.setCpsr (nzFlags r s.cpsr)).thumb = s.thumb := Psr.t_nzFlags r s.cpsr
    refine ⟨_, advance_of_armReady hs hpc hthumb, fun i hi => ?_, fun _ => nzIn_of_cpsr_eq r rfl, rfl,
      (hframe.setNzFlags r).setPc _⟩
    exact (State.x_setPc _ _ hi).trans (State.x_setCpsr hi (by rw [Psr.m_nzFlags, hcpsr]))

end

/-! ## MUL and MLA -/

section
variable {s : State} {i : Instr} {c : Cond} {sf : Bool} {rd : Reg} {n : Nat}

theorem Multiplies.rd_ne (h : Multiplies s i c sf rd n) (hwf : i.wf = true) : rd ≠ 15 := by
  cases h with
  | mul | mla =>
    simp only [Instr.wf, notPc, Bool.and_eq_true, bne_iff_ne] at hwf
    tauto

/-- Both are the write of the number stated, modulo 2^32. -/
theorem Multiplies.exec_eq (h : Multiplies s i c sf rd n) (hwf : i.wf = true) (hc : Cond.holds c s.cpsr = true) :
    exec i s = writeProduct s sf rd (BitVec.ofNat 32 n) := by
  cases h with
  | mul | mla =>
    simp only [BitVec.ofNat_add, BitVec.ofNat_mul, BitVec.ofNat_toNat, BitVec.setWidth_eq]
    exact onCondition_of_holds hwf hc _

end

/-- Settles O35: the register takes the number modulo 2^32, and N and Z are those of what the register takes. -/
theorem multiplyWritesLowWord : Obligations.MultiplyWritesLowWord := by
  intro s i c sf rd n h hwf hc hs
  have hrd := h.rd_ne hwf
  obtain ⟨t, ht, hx, hnz, hpc, hframe⟩ := nzFlags_gives (BitVec.ofNat 32 n) hs sf (u := s.setX rd (BitVec.ofNat 32 n))
    (by simp) (by simp) (SameBut.refl.setX rd _ (List.mem_singleton_self _))
  rw [BitVec.toNat_ofNat] at hnz
  refine ⟨t, (h.exec_eq hwf hc).trans ht, ?_, hnz, hpc, hframe⟩
  rw [hx rd hrd, State.x_setX_same s _ hrd, BitVec.toNat_ofNat]

/-! ## Exact results modulo a power of two -/

theorem toNat_ofInt_eq_emod (w : Nat) (n : Int) : ((BitVec.ofInt w n).toNat : Int) = n % 2 ^ w := by
  rw [BitVec.toNat_ofInt, Int.toNat_of_nonneg (Int.emod_nonneg n (by simp))]
  simp

/-- The signed half of R248 is the two's complement reading of its 16 bits. -/
theorem halfOf_eq_halfInt (v : Word) (top : Bool) : halfOf v top = halfInt v top := by
  have hfield : (v.extractLsb' (if top then 16 else 0) 16).toNat = v.toNat / (if top then 2 ^ 16 else 1) % 2 ^ 16 := by
    cases top <;> simp [BitVec.extractLsb'_toNat, Nat.shiftRight_eq_div_pow]
  unfold halfOf halfInt
  rewrite [BitVec.toInt_eq_toNat_cond, hfield]
  generalize v.toNat / (if top then 2 ^ 16 else 1) % 2 ^ 16 = field
  dsimp only
  omega

/-! ## Register pairs -/

/-- The pair is the number whose digits to the base 2^32 its registers are. -/
theorem State.toNat_pair (s : State) (hi lo : Reg) : (s.pair hi lo).toNat = s.pairNat hi lo := by
  rw [State.pair, BitVec.toNat_append, ← Nat.shiftLeft_add_eq_or_of_lt (s.x lo).isLt, Nat.shiftLeft_eq, State.pairNat]

/-- The digits of a 64-bit value to the base 2^32. -/
theorem toNat_pair_digits (p : BitVec 64) :
    (p.extractLsb' 32 32).toNat * 2 ^ 32 + (p.extractLsb' 0 32).toNat = p.toNat := by
  simp only [BitVec.extractLsb'_toNat, Nat.shiftRight_eq_div_pow]
  omega

section
variable (s : State) {hi lo : Reg} (p : BitVec 64)

@[simp] theorem State.setPair_cpsr : (s.setPair hi lo p).cpsr = s.cpsr := by simp [State.setPair]

@[simp] theorem State.setPair_pc : (s.setPair hi lo p).pc = s.pc := by simp [State.setPair]

/-- Two registers that differ take the two halves of a pair's value. -/
theorem State.pairNat_setPair (hhi : hi ≠ 15) (hlo : lo ≠ 15) (hne : hi ≠ lo) :
    (s.setPair hi lo p).pairNat hi lo = p.toNat := by
  rw [State.pairNat, State.setPair, State.x_setX_ne _ _ hne, State.x_setX_same _ _ hhi, State.x_setX_same _ _ hlo,
    toNat_pair_digits]

theorem State.setPair_sameBut {psr : Word} : SameBut [s.phys hi, s.phys lo] psr noBytes s (s.setPair hi lo p) :=
  (SameBut.refl.setX hi _ (by simp)).setX lo _ (by simp [State.phys])

end

/-! ## Long multiplies -/

section
variable {s : State} {i : Instr} {c : Cond} {sf : Bool} {hi lo : Reg} {n : Int}

/-- No long multiply writes the pc, nor one register twice (R246, R253). -/
theorem MultipliesLong.pair_ne (h : MultipliesLong s i c sf hi lo n) (hwf : i.wf = true) :
    hi ≠ 15 ∧ lo ≠ 15 ∧ hi ≠ lo := by
  cases h with
  | umull | umlal | smull | smlal | smlalxy =>
    simp only [Instr.wf, longMulOk, notPc, Bool.and_eq_true, bne_iff_ne] at hwf
    tauto

/-- Each is the write of the number stated, modulo 2^64; without S, SMLAL<x><y> among them. -/
theorem MultipliesLong.exec_eq (h : MultipliesLong s i c sf hi lo n) (hwf : i.wf = true)
    (hc : Cond.holds c s.cpsr = true) : exec i s = writeLong s sf hi lo (BitVec.ofInt 64 n) := by
  have hpair : BitVec.ofInt 64 (s.pairNat hi lo) = s.pair hi lo := by
    rw [BitVec.ofInt_natCast, ← State.toNat_pair, BitVec.ofNat_toNat, BitVec.setWidth_eq]
  cases h with
  | umull =>
    rw [BitVec.ofInt_natCast]
    exact onCondition_of_holds hwf hc _
  | umlal =>
    rw [Int.natCast_add, BitVec.ofInt_add, hpair, BitVec.ofInt_natCast]
    exact onCondition_of_holds hwf hc _
  | smull => exact onCondition_of_holds hwf hc _
  | smlal =>
    rw [BitVec.ofInt_add, hpair]
    exact onCondition_of_holds hwf hc _
  | smlalxy =>
    rw [BitVec.ofInt_add, hpair, ← halfOf_eq_halfInt, ← halfOf_eq_halfInt]
    exact onCondition_of_holds hwf hc _

end

/-- Settles O36: the pair takes the number modulo 2^64, and N and Z are those of what the pair takes. For SMLAL<x><y> with
RdHi or RdLo equal to Rm this rests on log entry 22: R246 forbids it to the long multiplies, R253 does not name it. -/
theorem longMultiplyWritesPair : Obligations.LongMultiplyWritesPair := by
  intro s i c sf hi lo n h hwf hc hs
  obtain ⟨hhi, hlo, hne⟩ := h.pair_ne hwf
  have hp : ((BitVec.ofInt 64 n).toNat : Int) = n % 2 ^ 64 := toNat_ofInt_eq_emod 64 n
  obtain ⟨t, ht, hx, hnz, hpc, hframe⟩ := nzFlags_gives (BitVec.ofInt 64 n) hs sf
    (u := s.setPair hi lo (BitVec.ofInt 64 n)) (by simp) (by simp) (s.setPair_sameBut _)
  refine ⟨t, (h.exec_eq hwf hc).trans ht, ?_, ?_, hpc, hframe⟩
  · rw [State.pairNat, hx hi hhi, hx lo hlo, ← hp, ← s.pairNat_setPair _ hhi hlo hne, State.pairNat]
  · rw [← hp, Int.toNat_natCast]
    exact hnz

/-! ## Multiplies of halves -/

/-- The floor of R251 is the one of `Int.fdiv`, its divisor being positive. -/
theorem wideProduct_eq_fdiv (v : Word) (half : Int) : wideProduct v half = (v.toInt * half).fdiv (2 ^ 16) :=
  (Int.fdiv_eq_ediv_of_nonneg _ (by decide)).symm

theorem outside32_iff (n : Int) : outside32 n = true ↔ n < -2 ^ 31 ∨ 2 ^ 31 ≤ n := by
  rw [outside32, ← Bool.decide_or, decide_eq_true_iff]
  omega

section
variable {s : State} {i : Instr} {c : Cond} {rd : Reg} {n : Int} {accumulates : Bool}

theorem MultipliesHalves.rd_ne (h : MultipliesHalves s i c rd n accumulates) (hwf : i.wf = true) : rd ≠ 15 := by
  cases h with
  | smlaxy | smlawy | smulwy | smulxy =>
    simp only [Instr.wf, notPc, Bool.and_eq_true, bne_iff_ne] at hwf
    tauto

/-- Each is the write of the number stated, modulo 2^32, beside the sticky Q; a product alone sets no Q. -/
theorem MultipliesHalves.exec_eq (h : MultipliesHalves s i c rd n accumulates) (hwf : i.wf = true)
    (hc : Cond.holds c s.cpsr = true) :
    exec i s = advance ((s.setX rd (BitVec.ofInt 32 n)).stickyQ (accumulates && outside32 n)) := by
  cases h with
  | smlaxy | smulxy =>
    rw [← halfOf_eq_halfInt, ← halfOf_eq_halfInt]
    exact onCondition_of_holds hwf hc _
  | smlawy | smulwy =>
    rw [← halfOf_eq_halfInt, ← wideProduct_eq_fdiv]
    exact onCondition_of_holds hwf hc _

end

/-- Settles O37: the register takes the number modulo 2^32, and Q is set if the accumulation leaves the signed range. -/
theorem halfwordMultipliesWriteResult : Obligations.HalfwordMultipliesWriteResult := by
  intro s i c rd n accumulates h hwf hc hs
  obtain ⟨t, ht, hx, hq, hpc, hframe⟩ :=
    stickyQ_gives hs (h.rd_ne hwf) (BitVec.ofInt 32 n) (accumulates && outside32 n)
  refine ⟨t, (h.exec_eq hwf hc).trans ht, hx ▸ toNat_ofInt_eq_emod 32 n, ?_, hpc, hframe⟩
  rw [hq, Bool.and_eq_true, outside32_iff]

end Sys2Proof.Machine

/-! SUPPORT AND PROOFS of the statement about MRS. First the layer: what each read of a status register does, and the end of an
instruction that writes one register. -/

namespace Sys2Proof.Machine

/-! ## MRS -/

section
variable {s : State} {rd : Reg}

theorem readPsr_current : readPsr s false rd = advance (s.setX rd s.cpsr) := rfl

theorem readPsr_saved {p : Word} (hp : s.spsr? = some p) : readPsr s true rd = advance (s.setX rd p) := by
  simp [readPsr, hp]

theorem readPsr_noSpsr (hp : s.spsr? = none) : readPsr s true rd = .refused .noSpsr := by
  simp [readPsr, hp]

/-- With its fixed fields as R270 draws them and a destination other than the pc, MRS is well formed, so it reads. -/
theorem exec_mrs_of_holds {c : Cond} (hrd : rd ≠ 15) (hc : Cond.holds c s.cpsr = true) (r : Bool) :
    exec (.mrs c r 15 rd 0) s = readPsr s r rd := by
  have hwf : (Instr.mrs c r 15 rd 0).wf = true := by simpa [Instr.wf, notPc] using hrd
  exact onCondition_of_holds hwf hc _

/-- The end of an instruction that writes one register and nothing else. -/
theorem advance_setX_gives (hs : s.armReady) (hrd : rd ≠ 15) (v : Word) :
    gives (advance (s.setX rd v)) fun t => t.x rd = v ∧ t.pc = s.pc + 4 ∧ SameBut [s.phys rd] 0 noBytes s t := by
  refine ⟨_, advance_of_armReady hs (by simp) (by simp), ?_, rfl, (SameBut.refl.setX rd v (by simp)).setPc _⟩
  rw [State.x_setPc _ _ hrd, State.x_setX_same _ v hrd]

end

/-- Settles O38: each read that runs is a write of the register alone, and without an SPSR its read is refused. -/
theorem mrsReadsStatusRegisters : Obligations.MrsReadsStatusRegisters := by
  intro c rd s hrd hc hs
  have hexec (r : Bool) : exec (.mrs c r 15 rd 0) s = readPsr s r rd := exec_mrs_of_holds hrd hc r
  refine ⟨?_, fun p hp => ?_, fun hp => ?_⟩
  · rw [hexec, readPsr_current]
    exact advance_setX_gives hs hrd s.cpsr
  · rw [hexec, readPsr_saved hp]
    exact advance_setX_gives hs hrd p
  · rw [hexec, readPsr_noSpsr hp]

end Sys2Proof.Machine

/-! SUPPORT AND PROOFS of the statements about the byte, halfword and doubleword transfers and about the addresses of single
transfers. First the addresses; then, for each load, what a number read becomes in the register, and what a sequence of words
that is admitted reads or stores. -/

namespace Sys2Proof.Machine

/-! ## Addresses of single transfers -/

/-- The address and the base of an indexed transfer, by P, U and W (R291, R371). -/
theorem indexed_tabled (p u w : Bool) (rn : Reg) (base offset : Word) :
    (indexed p u w rn base offset).start = (if p then if u then base + offset else base - offset else base) ∧
      (indexed p u w rn base offset).writeBack =
        if p = true ∧ w = false then none else some (rn, if u then base + offset else base - offset) := by
  cases p <;> cases w <;> exact ⟨rfl, rfl⟩

/-- The two halves of an offset are its digits to the base 16 (R290). -/
theorem splitOffset_eq (hi lo : BitVec 4) : splitOffset hi lo = BitVec.ofNat 32 (16 * hi.toNat + lo.toNat) := by
  apply BitVec.eq_of_toNat_eq
  rw [splitOffset, BitVec.toNat_setWidth, BitVec.toNat_append, ← Nat.shiftLeft_add_eq_or_of_lt lo.isLt, Nat.shiftLeft_eq,
    BitVec.toNat_ofNat, Nat.mul_comm]

/-- Settles O22: every form but the coprocessor's is the one indexed address, with an offset of its own. -/
theorem transferAddressesAsTabled : Obligations.TransferAddressesAsTabled := by
  intro s p u w rn rm n sh imm12 hi lo offset8 base target tabled
  have himm : imm12.setWidth 32 = BitVec.ofNat 32 imm12.toNat := (BitVec.ofNat_toNat 32 imm12).symm
  refine ⟨indexed_tabled p u w rn base _, himm ▸ indexed_tabled p u w rn base _, indexed_tabled p u w rn base _,
    splitOffset_eq hi lo ▸ indexed_tabled p u w rn base _, ?_⟩
  rw [← wordsOffset_eq]
  exact ⟨rfl, rfl⟩

/-! ## Byte and halfword loads -/

/-- What a load makes of the `n` bytes that hold the number `v` (R293 to R295, R376, R380). -/
def narrowValue (n : Nat) (signed : Bool) (v : Nat) : Word :=
  BitVec.ofInt 32 (if signed = true ∧ 256 ^ n ≤ 2 * v then (v : Int) - 256 ^ n else v)

section
variable {n v : Nat} (h : v < 256 ^ n)
include h

/-- A number of `n` bytes fits in `8 * n` bits. -/
theorem toNat_ofNat_bytes : (BitVec.ofNat (8 * n) v).toNat = v := by
  rw [BitVec.toNat_ofNat, Nat.pow_mul]
  exact Nat.mod_eq_of_lt h

theorem setWidth_eq_narrowValue : (BitVec.ofNat (8 * n) v).setWidth 32 = narrowValue n false v := by
  rw [narrowValue, if_neg fun hf => Bool.false_ne_true hf.1, BitVec.ofInt_natCast]
  exact BitVec.eq_of_toNat_eq (by rw [BitVec.toNat_setWidth, toNat_ofNat_bytes h, BitVec.toNat_ofNat])

theorem signExtend_eq_narrowValue : (BitVec.ofNat (8 * n) v).signExtend 32 = narrowValue n true v := by
  have hpow : 2 ^ (8 * n) = 256 ^ n := Nat.pow_mul 2 8 n
  have htoInt : (BitVec.ofNat (8 * n) v).toInt = if 256 ^ n ≤ 2 * v then (v : Int) - 256 ^ n else v := by
    rw [BitVec.toInt_eq_toNat_cond, toNat_ofNat_bytes h, hpow, Nat.cast_pow]
    by_cases hneg : 256 ^ n ≤ 2 * v
    · exact (if_neg (Nat.not_lt.mpr hneg)).trans (if_pos hneg).symm
    · exact (if_pos (Nat.lt_of_not_le hneg)).trans (if_neg hneg).symm
  rw [BitVec.signExtend, htoInt, narrowValue]
  simp only [true_and]

end

section
variable {s : State} {privileged : Bool} {a : Word} {m : Address} {rd : Reg} {v : Nat}

theorem State.readHalf_of_holds (hadmit : s.settings.aborts .read privileged 2 a = false) (h : s.holds a 2 v) :
    s.readHalf privileged a = .value (BitVec.ofNat 16 v) :=
  State.access_value.mpr ⟨hadmit, State.half_of_holds h⟩

theorem loadByte_of_holds (hadmit : s.settings.aborts .read privileged 1 m.start = false) (h : s.holds m.start 1 v) :
    loadByte s privileged m rd = finishLoad s m rd (narrowValue 1 false v) := by
  rw [loadByte, State.readByte_of_holds hadmit h, ← setWidth_eq_narrowValue h.1]
  rfl

theorem loadSignedByte_of_holds (hadmit : s.settings.aborts .read s.privileged 1 m.start = false)
    (h : s.holds m.start 1 v) : loadSignedByte s m rd = finishLoad s m rd (narrowValue 1 true v) := by
  rw [loadSignedByte, State.readByte_of_holds hadmit h, ← signExtend_eq_narrowValue h.1]
  rfl

/-- A halfword load from an even address that nothing keeps from running. -/
theorem loadHalf_of_holds {ext : Half → Word} (hal : m.start.toNat % 2 = 0)
    (hadmit : s.settings.aborts .read s.privileged 2 m.start = false) (h : s.holds m.start 2 v) :
    loadHalf s m rd ext = finishLoad s m rd (ext (BitVec.ofNat 16 v)) := by
  rw [loadHalf, if_neg (mt (getLsbD_zero_iff _).mp (by omega)), State.readHalf_of_holds hadmit h]
  rfl

/-- A halfword load from an odd address that the alignment check lets by (R68). -/
theorem loadHalf_odd {ext : Half → Word} (hal : s.settings.alignFault = false) (h : m.start.toNat % 2 ≠ 0)
    (hfit : m.start.toNat + 2 ≤ 2 ^ 32) : loadHalf s m rd ext = .refused .unpredictableAlignment := by
  rw [loadHalf, if_pos ((getLsbD_zero_iff _).mpr (by omega)), misaligned_of_fits hfit,
    if_neg (Bool.eq_false_iff.mp hal)]

end

/-- What the restrictions on a halfword or signed transfer say of its registers (R291). -/
theorem halfImmOk_registers {p w : Bool} {rn rd : Reg} (h : halfImmOk p w rn rd = true) :
    rd ≠ 15 ∧ baseOk p w rn rd = true := by
  simp only [halfImmOk, notPc, Bool.and_eq_true, bne_iff_ne] at h
  obtain ⟨⟨-, hrd⟩, hbase⟩ := h
  exact ⟨hrd, hbase⟩

theorem halfImmOk_of_halfRegOk {p w : Bool} {rn rd rm : Reg} {sbz : BitVec 4} (h : halfRegOk p w rn rd sbz rm = true) :
    halfImmOk p w rn rd = true := by
  simp only [halfRegOk, Bool.and_eq_true] at h
  obtain ⟨⟨-, himm⟩, -⟩ := h
  exact himm

section
variable {s : State} {i : Instr} {c : Cond} {privileged : Bool} {m : Address} {rd : Reg} {n v : Nat} {signed : Bool}

/-- Every narrow load has an indexed address whose restrictions its well-formedness includes, and does not load the pc. -/
theorem LoadsNarrow.registers_ok (h : LoadsNarrow s i c privileged m rd n signed) (hwf : i.wf = true) :
    rd ≠ 15 ∧ ∀ rn v, m.writeBack = some (rn, v) → rn ≠ 15 ∧ rn ≠ rd := by
  cases h with
  | ldrbReg =>
    simp only [Instr.wf, wordRegOk, wordImmOk, notPc, Bool.and_eq_true, bne_iff_ne] at hwf
    obtain ⟨⟨⟨-, hbase⟩, -⟩, hrd⟩ := hwf
    exact ⟨hrd, fun _ _ => baseOk_writeBack hbase⟩
  | ldrbImm =>
    simp only [Instr.wf, wordImmOk, notPc, Bool.and_eq_true, bne_iff_ne] at hwf
    obtain ⟨⟨-, hbase⟩, hrd⟩ := hwf
    exact ⟨hrd, fun _ _ => baseOk_writeBack hbase⟩
  | ldrbtReg =>
    simp only [Instr.wf, transRegOk, transImmOk, notPc, Bool.and_eq_true, bne_iff_ne] at hwf
    obtain ⟨⟨hbase, -⟩, hrd⟩ := hwf
    exact ⟨hrd, fun _ _ => baseOk_writeBack hbase⟩
  | ldrbtImm =>
    simp only [Instr.wf, transImmOk, notPc, Bool.and_eq_true, bne_iff_ne] at hwf
    obtain ⟨hbase, hrd⟩ := hwf
    exact ⟨hrd, fun _ _ => baseOk_writeBack hbase⟩
  | ldrsbReg | ldrhReg | ldrshReg =>
    obtain ⟨hrd, hbase⟩ := halfImmOk_registers (halfImmOk_of_halfRegOk hwf)
    exact ⟨hrd, fun _ _ => baseOk_writeBack hbase⟩
  | ldrsbImm | ldrhImm | ldrshImm =>
    obtain ⟨hrd, hbase⟩ := halfImmOk_registers hwf
    exact ⟨hrd, fun _ _ => baseOk_writeBack hbase⟩

theorem LoadsNarrow.exec_of_holds (hi : LoadsNarrow s i c privileged m rd n signed) (hwf : i.wf = true)
    (hc : Cond.holds c s.cpsr = true) (hal : m.start.toNat % n = 0)
    (hadmit : s.settings.aborts .read privileged n m.start = false) (h : s.holds m.start n v) :
    exec i s = finishLoad s m rd (narrowValue n signed v) := by
  cases hi with
  | ldrbReg | ldrbImm | ldrbtReg | ldrbtImm =>
    exact (onCondition_of_holds hwf hc _).trans (loadByte_of_holds hadmit h)
  | ldrsbReg | ldrsbImm => exact (onCondition_of_holds hwf hc _).trans (loadSignedByte_of_holds hadmit h)
  | ldrhReg | ldrhImm =>
    rw [← setWidth_eq_narrowValue h.1]
    exact (onCondition_of_holds hwf hc _).trans (loadHalf_of_holds hal hadmit h)
  | ldrshReg | ldrshImm =>
    rw [← signExtend_eq_narrowValue h.1]
    exact (onCondition_of_holds hwf hc _).trans (loadHalf_of_holds hal hadmit h)

theorem LoadsNarrow.exec_misaligned (hi : LoadsNarrow s i c privileged m rd n signed) (hwf : i.wf = true)
    (hc : Cond.holds c s.cpsr = true) (hal : s.settings.alignFault = false) (h : m.start.toNat % n ≠ 0)
    (hfit : m.start.toNat + n ≤ 2 ^ 32) : exec i s = .refused .unpredictableAlignment := by
  cases hi with
  | ldrbReg | ldrbImm | ldrbtReg | ldrbtImm | ldrsbReg | ldrsbImm => exact absurd (Nat.mod_one _) h
  | ldrhReg | ldrhImm | ldrshReg | ldrshImm =>
    exact (onCondition_of_holds hwf hc _).trans (loadHalf_odd hal h hfit)

end

/-- Settles O43: a load that nothing keeps from running ends in the register, and an odd halfword address is refused. -/
theorem narrowLoadsExtend : Obligations.NarrowLoadsExtend := by
  intro s i c privileged m rd n signed v hi hwf hc hs
  obtain ⟨hrd, hbase⟩ := hi.registers_ok hwf
  refine ⟨fun hal hadmit hholds => ?_, fun h hfit hal => hi.exec_misaligned hwf hc hal h hfit⟩
  rw [hi.exec_of_holds hwf hc hal hadmit hholds]
  exact finishLoad_gives hs hrd hbase (narrowValue n signed v)

/-! ## Sequences of words that nothing keeps from running -/

section
variable {s : State} {m : Address} {vs : List Word}

/-- A frame may name more registers. -/
theorem SameBut.mono_regs {regs regs' : List (Option PhysReg)} {psr : Word} {touched : Word → Prop} {u : State}
    (h : SameBut regs psr touched s u) (hsub : regs ⊆ regs') : SameBut regs' psr touched s u := by
  obtain ⟨hregs, hrest⟩ := h
  exact ⟨fun r hr => hregs r fun hin => hr (hsub hin), hrest⟩

/-- Words that are admitted and held are read together. -/
theorem State.readBlock_of_holdsWords {a : Word} (hadmit : s.admits .read a vs.length) (h : s.holdsWords a vs) :
    s.readBlock s.privileged a vs.length = .value vs :=
  State.readBlock_value.mpr
    ⟨rfl, fun _ _ hk => State.access_value.mp (State.readWord_of_holdsWords hadmit h hk)⟩

/-- The end of a sequence of stores that is admitted: the words, then the base, then the next instruction. -/
theorem finishBlock_gives (hs : s.armReady) (hbase : ∀ rn v, m.writeBack = some (rn, v) → rn ≠ 15)
    (hn : 4 * vs.length ≤ 2 ^ 32) (hadmit : s.admits .write m.start vs.length) :
    gives (finishBlock (s.writeBlock s.privileged m.start vs) m.writeBack) fun t =>
      t.holdsWords m.start vs ∧ BaseWritten m t ∧ t.pc = s.pc + 4 ∧
      SameBut (s.basePhys m) 0 (bytesAt (alignWord m.start) (4 * vs.length)) s t := by
  have hok : (s.writeBlock s.privileged m.start vs).2 = false := State.writeBlock_admitted hadmit
  refine ⟨_, (if_neg (Bool.eq_false_iff.mp hok)).trans (advance_of_armReady hs (by simp) (by simp [State.thumb])),
    fun k v hk => ?_, fun rn v hw => ?_, rfl, ?_⟩
  · exact (State.holds_congr (by simp) (by simp)).mpr (State.holds_writeBlock hn hok hk)
  · rw [State.x_setPc _ _ (hbase rn v hw), State.x_writeBack hw (hbase rn v hw)]
  · have hstored := (sameBut_writeBlock s s.privileged m.start vs).mono_regs (List.nil_subset (s.basePhys m))
    refine (hstored.writeBack fun rn v hw => ?_).setPc _
    simpa [State.phys] using State.mem_basePhys (s := s) hw

end

/-! ## LDRD and STRD -/

/-- The registers of a doubleword are two, and neither is the pc (R296, R297). -/
theorem evenPair_ne {rd : Reg} (heven : rd.getLsbD 0 = false) (h14 : rd ≠ 14) :
    rd ≠ 15 ∧ rd + 1 ≠ 15 ∧ rd ≠ rd + 1 := by
  revert rd
  decide

/-- What the restrictions on a doubleword transfer say of its registers: a base that is written is neither the pc nor one of
the pair (R291, R296, R297). -/
theorem doubleImmOk_registers {p u w : Bool} {rn rd : Reg} {base offset : Word} (h : doubleImmOk p w rn rd = true) :
    (rd ≠ 15 ∧ rd + 1 ≠ 15 ∧ rd ≠ rd + 1) ∧
      ∀ r v, (indexed p u w rn base offset).writeBack = some (r, v) → r ≠ 15 ∧ r ≠ rd ∧ r ≠ rd + 1 := by
  simp only [doubleImmOk, Bool.and_eq_true, Bool.not_eq_true', bne_iff_ne] at h
  obtain ⟨⟨⟨⟨-, heven⟩, h14⟩, hbase⟩, hbase'⟩ := h
  refine ⟨evenPair_ne heven h14, fun r v hw => ?_⟩
  obtain ⟨h15, hrd⟩ := baseOk_writeBack hbase hw
  obtain ⟨-, hrd'⟩ := baseOk_writeBack hbase' hw
  exact ⟨h15, hrd, hrd'⟩

theorem doubleImmOk_of_doubleRegOk {p w : Bool} {rn rd rm : Reg} {sbz : BitVec 4}
    (h : doubleRegOk p w rn rd sbz rm = true) : doubleImmOk p w rn rd = true := by
  simp only [doubleRegOk, Bool.and_eq_true] at h
  obtain ⟨⟨-, himm⟩, -⟩ := h
  exact himm

theorem Doubles.registers_ok {s : State} {i : Instr} {c : Cond} {m : Address} {rd : Reg} {store : Bool}
    (h : Doubles s i c m rd store) (hwf : i.wf = true) :
    (rd ≠ 15 ∧ rd + 1 ≠ 15 ∧ rd ≠ rd + 1) ∧
      ∀ rn v, m.writeBack = some (rn, v) → rn ≠ 15 ∧ rn ≠ rd ∧ rn ≠ rd + 1 := by
  cases h with
  | ldrdReg =>
    simp only [Instr.wf, Bool.and_eq_true] at hwf
    obtain ⟨⟨hreg, -⟩, -⟩ := hwf
    exact doubleImmOk_registers (doubleImmOk_of_doubleRegOk hreg)
  | strdReg => exact doubleImmOk_registers (doubleImmOk_of_doubleRegOk hwf)
  | ldrdImm | strdImm => exact doubleImmOk_registers hwf

/-- An LDRD that nothing keeps from running. -/
theorem loadDouble_of_holdsWords {s : State} {m : Address} {rd : Reg} {v0 v1 : Word} (hal : m.start.toNat % 8 = 0)
    (hadmit : s.admits .read m.start 2) (h : s.holdsWords m.start [v0, v1]) :
    loadDouble s m rd = advance (((s.writeBack m.writeBack).setX rd v0).setX (rd + 1) v1) := by
  have hread : s.readBlock s.privileged m.start 2 = .value [v0, v1] := State.readBlock_of_holdsWords hadmit h
  rw [loadDouble_of_aligned hal, hread]
  rfl

/-- The end of an LDRD: the base, then the pair, then the next instruction. -/
theorem finishDouble_gives {s : State} {m : Address} {rd : Reg} (hs : s.armReady)
    (hpair : rd ≠ 15 ∧ rd + 1 ≠ 15 ∧ rd ≠ rd + 1)
    (hbase : ∀ rn v, m.writeBack = some (rn, v) → rn ≠ 15 ∧ rn ≠ rd ∧ rn ≠ rd + 1) (v0 v1 : Word) :
    gives (advance (((s.writeBack m.writeBack).setX rd v0).setX (rd + 1) v1)) fun t =>
      t.x rd = v0 ∧ t.x (rd + 1) = v1 ∧ BaseWritten m t ∧ t.pc = s.pc + 4 ∧
      SameBut ([s.phys rd, s.phys (rd + 1)] ++ s.basePhys m) 0 noBytes s t := by
  obtain ⟨hrd, hrd', hne⟩ := hpair
  refine ⟨_, advance_of_armReady hs (by simp) (by simp), ?_, ?_, fun rn v hw => ?_, rfl, ?_⟩
  · rw [State.x_setPc _ _ hrd, State.x_setX_ne _ _ hne, State.x_setX_same _ _ hrd]
  · rw [State.x_setPc _ _ hrd', State.x_setX_same _ _ hrd']
  · obtain ⟨h15, hne0, hne1⟩ := hbase rn v hw
    rw [State.x_setPc _ _ h15, State.x_setX_ne _ _ hne1, State.x_setX_ne _ _ hne0, State.x_writeBack hw h15]
  · have hbaseFrame : SameBut ([s.phys rd, s.phys (rd + 1)] ++ s.basePhys m) 0 noBytes s (s.writeBack m.writeBack) :=
      SameBut.refl.writeBack fun rn v hw => List.mem_append_right _ (State.mem_basePhys hw)
    exact ((hbaseFrame.setX rd v0 (by simp)).setX (rd + 1) v1 (by simp [State.phys])).setPc _

/-- Settles O45: the words are read before a register is written, and stored before the base is. -/
theorem doublewordTransfersMoveTwoWords : Obligations.DoublewordTransfersMoveTwoWords := by
  intro s i c m rd store v0 v1 hi hwf hc hs hal hadmit
  obtain ⟨hpair, hbase⟩ := hi.registers_ok hwf
  rw [hi.exec_eq hwf hc]
  refine ⟨fun hload hholds => ?_, fun hstore => ?_⟩
  · subst hload
    rw [if_neg Bool.false_ne_true, loadDouble_of_holdsWords hal hadmit hholds]
    exact finishDouble_gives hs hpair hbase v0 v1
  · subst hstore
    have haligned : alignWord m.start = m.start := alignWord_of_lowTwo ((lowTwo_eq_zero _).mpr (by omega))
    rw [if_pos rfl, storeDouble_of_aligned hal]
    have hgives := finishBlock_gives (vs := [s.x rd, s.x (rd + 1)]) hs (fun rn v hw => (hbase rn v hw).1) (by simp)
      hadmit
    rwa [haligned] at hgives

end Sys2Proof.Machine

/-! PROOFS of the data-processing statements. First the layer: the model's adder, subtracter and logical results against the
one adder of R360 and its flags (R322), and the return from an exception (R323). -/

namespace Sys2Proof.Machine

/-! ## The adder -/

/-- The 33-bit sum does not wrap. -/
theorem wideSum_toNat (a b : Word) (c : Bool) : (wideSum a b c).toNat = a.toNat + b.toNat + bit c := by
  cases c <;> simp only [wideSum, bit, BitVec.toNat_add, BitVec.toNat_setWidth, BitVec.toNat_ofBool, Bool.toNat_false,
    Bool.toNat_true, if_true, Bool.false_eq_true, if_false] <;> omega

/-- `CarryFrom` is bit 32 of the sum. -/
theorem carryFrom_eq (a b : Word) (c : Bool) : carryFrom a b c = (wideSum a b c).getLsbD 32 := by
  have hbit : bit c ≤ 1 := by cases c <;> decide
  rw [carryFrom, BitVec.getLsbD, Nat.testBit_eq_decide_div_mod_eq, wideSum_toNat]
  exact decide_eq_decide.mpr (by omega)

/-- Bit 31 of a word says that it is in the upper half of its range. -/
theorem getLsbD_sign (a : Word) : a.getLsbD 31 = decide (2 ^ 31 ≤ a.toNat) :=
  (BitVec.msb_eq_getLsbD_last a).symm.trans (BitVec.msb_eq_decide a)

/-- `OverflowFrom` a sum: addends of the same sign and a result of another (R360). -/
theorem overflowAdd_eq (a b : Word) (c v : Bool) : overflowAdd a b c = (Calc.sum a b c).overflow v := by
  have hbit : bit c ≤ 1 := by cases c <;> decide
  have hresult : (Calc.sum a b c).result.toNat = (a.toNat + b.toNat + bit c) % 2 ^ 32 := by
    rw [Calc.result, BitVec.extractLsb'_toNat, Nat.shiftRight_zero, wideSum_toNat]
  rw [Bool.eq_iff_iff, overflowAdd, outside32_iff, Calc.overflow, Bool.and_eq_true, beq_iff_eq, bne_iff_ne,
    getLsbD_sign, getLsbD_sign, getLsbD_sign, hresult, decide_eq_decide, ne_eq, decide_eq_decide,
    BitVec.toInt_eq_toNat_cond, BitVec.toInt_eq_toNat_cond]
  omega

theorem bit_add_bit_not (c : Bool) : bit c + bit (!c) = 1 := by cases c <;> rfl

/-- Subtraction is the sum with the complement, the carry being NOT borrow (R360). -/
theorem aluDiff_eq_aluSum (a b : Word) (c : Bool) : aluDiff a b (!c) = aluSum a (~~~b) c := by
  have hresult : (aluDiff a b (!c)).result = (aluSum a (~~~b) c).result :=
    (aluDiff_result a b c).trans (aluSum_result a (~~~b) c).symm
  have hbit := bit_add_bit_not c
  have hcarry : (!borrowFrom a b (!c)) = carryFrom a (~~~b) c := by
    rw [borrowFrom, carryFrom, ← decide_not, BitVec.toNat_not]
    exact decide_eq_decide.mpr (by omega)
  have hoverflow : overflowSub a b (!c) = overflowAdd a (~~~b) c := by
    have hnot : (~~~b).toInt = -b.toInt - 1 := by
      rw [BitVec.toInt_eq_toNat_cond, BitVec.toInt_eq_toNat_cond, BitVec.toNat_not]
      omega
    rw [overflowSub, overflowAdd, hnot]
    exact congrArg outside32 (by omega)
  simp only [aluDiff, aluSum, Alu.mk.injEq] at hresult ⊢
  exact ⟨hresult, hcarry, hoverflow⟩

/-! ## What the model computes is what the rules state -/

/-- The model's computation `o` is the calculation `k`, if V was `v` before. -/
structure Alu.Computes (o : Alu) (k : Calc) (v : Bool) : Prop where
  result : o.result = k.result
  carry : o.carry = k.carry
  overflow : o.overflow = k.overflow v

theorem aluSum_computes (a b : Word) (c v : Bool) : (aluSum a b c).Computes (.sum a b c) v :=
  ⟨aluSum_result a b c, carryFrom_eq a b c, overflowAdd_eq a b c v⟩

theorem aluDiff_computes (a b : Word) (c v : Bool) : (aluDiff a b (!c)).Computes (.sum a (~~~b) c) v :=
  aluDiff_eq_aluSum a b c ▸ aluSum_computes a (~~~b) c v

theorem aluLogical_computes (r : Word) (b : Operand2) (p : Word) :
    (aluLogical r b p).Computes (.logic r b.carry) (Psr.v p) :=
  ⟨rfl, rfl, rfl⟩

/-- Each opcode computes what R330 to R345 state. -/
theorem DpOp.aluIn_computes (op : DpOp) (s : State) (rn : Reg) (f : DpForm) :
    (op.aluIn s rn f).Computes (op.calcIn s rn f) (Psr.v s.cpsr) := by
  cases op with
  | and | eor | orr | mov | bic | mvn => exact aluLogical_computes _ _ _
  | add | adc => exact aluSum_computes _ _ _ _
  | sub => exact aluDiff_computes _ _ true _
  | rsb => exact aluDiff_computes _ _ true _
  | sbc | rsc => exact aluDiff_computes _ _ _ _

/-! ## N, Z, C and V of a result -/

section
variable {s u : State} {o : Alu} {k : Calc}

@[simp] theorem Alu.m_flags (o : Alu) (p : Word) : Psr.m (o.flags p) = Psr.m p := Psr.m_withNZCV p _ _ _ _

@[simp] theorem Alu.t_flags (o : Alu) (p : Word) : Psr.t (o.flags p) = Psr.t p := Psr.t_withNZCV p _ _ _ _

/-- The four flags of a computation are those of the calculation it does (R322). -/
theorem Alu.Computes.flagsIn (h : o.Computes k (Psr.v s.cpsr)) (hu : u.cpsr = o.flags s.cpsr) : k.FlagsIn s u := by
  unfold Calc.FlagsIn
  rw [hu, Alu.flags, Psr.n_withNZCV, Psr.z_withNZCV, Psr.c_withNZCV, Psr.v_withNZCV, h.result, h.carry, h.overflow,
    beq_iff_eq]
  exact ⟨rfl, Iff.rfl, rfl, rfl⟩

/-- The four flags are set, if the frame names them. -/
theorem SameBut.setFlags {regs : List (Option PhysReg)} {touched : Word → Prop} (h : SameBut regs nzcvBits touched s u)
    (o : Alu) : SameBut regs nzcvBits touched s (u.setCpsr (o.flags s.cpsr)) :=
  h.setCpsr (Psr.withNZCV_outside s.cpsr _ _ _ _)

/-- The end of an instruction that sets the four flags: `u` has the result in its registers, if one is written. -/
theorem setFlags_gives (ho : o.Computes k (Psr.v s.cpsr)) (hs : s.armReady) {regs : List (Option PhysReg)}
    (hcpsr : u.cpsr = s.cpsr) (hpc : u.pc = s.pc) (hframe : SameBut regs nzcvBits noBytes s u) :
    gives (advance (u.setCpsr (o.flags s.cpsr))) fun t =>
      (∀ i, i ≠ 15 → t.x i = u.x i) ∧ t.pc = s.pc + 4 ∧ k.FlagsIn s t ∧ SameBut regs nzcvBits noBytes s t := by
  have hthumb : (u.setCpsr (o.flags s.cpsr)).thumb = s.thumb := o.t_flags s.cpsr
  refine ⟨_, advance_of_armReady hs hpc hthumb, fun i hi => ?_, rfl, ho.flagsIn rfl, (hframe.setFlags o).setPc _⟩
  rw [State.x_setPc _ _ hi, State.x_setCpsr hi (by rw [Alu.m_flags, hcpsr])]

/-- A write of a result to a register other than the pc, with its flags under S (R322). -/
theorem writeResult_gives (ho : o.Computes k (Psr.v s.cpsr)) (hs : s.armReady) (sf : Bool) {rd : Reg} (hrd : rd ≠ 15) :
    gives (writeResult s sf rd o) fun t =>
      t.x rd = k.result ∧ t.pc = s.pc + 4 ∧ (sf = true → k.FlagsIn s t) ∧
      SameBut [s.phys rd] (if sf then nzcvBits else 0) noBytes s t := by
  have hx : (s.setX rd o.result).x rd = k.result := (s.x_setX_same _ hrd).trans ho.result
  rw [writeResult_register hrd]
  cases sf with
  | false =>
    exact ⟨_, advance_of_armReady hs (by simp) (by simp), (State.x_setPc _ _ hrd).trans hx, rfl, nofun,
      (SameBut.refl.setX rd _ (by simp)).setPc _⟩
  | true =>
    obtain ⟨t, ht, hregs, hpc, hflags, hframe⟩ :=
      setFlags_gives ho hs (u := s.setX rd o.result) (by simp) (by simp) (SameBut.refl.setX rd _ (List.mem_singleton_self _))
    exact ⟨t, ht, (hregs rd hrd).trans hx, hpc, fun _ => hflags, hframe⟩

end

/-! ## Data processing -/

/-- Settles O24: every opcode computes what its rule states, and the write of a register takes the result and the flags. -/
theorem dataProcessingWritesResultAndFlags : Obligations.DataProcessingWritesResultAndFlags := by
  intro op f c sf rn rd s hwf hc hrd hs
  rw [exec_dpInstr, onCondition_of_holds hwf hc]
  exact writeResult_gives (op.aluIn_computes s rn f) hs sf hrd

/-- Each of the 12 compares tests its opcode's calculation. -/
theorem exec_compareInstr {op : DpOp} {f : DpForm} {c : Cond} {rn : Reg} {i : Instr} (h : compareInstr c rn op f = some i)
    (s : State) : exec i s = onCondition i c s (testResult s (op.aluIn s rn f)) := by
  cases op <;> cases f <;> cases h <;> rfl

/-- Settles O25: a compare is the end of a flag-setting instruction that has written no register. -/
theorem comparesSetFlagsAlone : Obligations.ComparesSetFlagsAlone := by
  intro op f c rn s i hi hwf hc hs
  obtain ⟨t, ht, -, hend⟩ := setFlags_gives (op.aluIn_computes s rn f) hs (u := s) rfl rfl SameBut.refl
  rw [exec_compareInstr hi, onCondition_of_holds hwf hc]
  exact ⟨t, ht, hend⟩

/-! ## Returning from exceptions -/

/-- A return clears the low bits of its target as the restored T says (R323). -/
theorem exceptionReturn_of_legal {s : State} {p : Word} (hp : s.spsr? = some p)
    (hm : (Mode.ofBits? (Psr.m p)).isSome = true) (v : Word) :
    exceptionReturn s v = .next { s with
      cpsr := p
      pc := v &&& (if p.getLsbD 5 then 0xFFFFFFFE else 0xFFFFFFFC) } := by
  refine (exceptionReturn_next.mpr ⟨p, hp, hm, rfl⟩).trans (congrArg (fun a => Host.Outcome.next ((s.setCpsr p).setPc a)) ?_)
  exact (apply_ite (v &&& ·) _ _ _).symm

theorem exceptionReturn_of_illegal {s : State} {p : Word} (hp : s.spsr? = some p)
    (hm : (Mode.ofBits? (Psr.m p)).isSome = false) (v : Word) : exceptionReturn s v = .refused .illegalMode := by
  simp only [exceptionReturn, hp, hm, Bool.false_eq_true, if_false]

theorem exceptionReturn_of_noSpsr {s : State} (h : s.spsr? = none) (v : Word) :
    exceptionReturn s v = .refused .noSpsr := by
  simp only [exceptionReturn, h]

/-- With S, a result for the pc is the target of a return. -/
theorem exec_dpInstr_return {op : DpOp} {f : DpForm} {c : Cond} {rn : Reg} {s : State}
    (hwf : (op.instr c true rn 15 f).wf = true) (hc : Cond.holds c s.cpsr = true) :
    exec (op.instr c true rn 15 f) s = exceptionReturn s (op.calcIn s rn f).result := by
  rw [exec_dpInstr, onCondition_of_holds hwf hc, ← aluIn_result]
  rfl

/-- Settles O27: the cases are those of the return: a legal mode restored, an illegal one, and no SPSR. -/
theorem dataProcessingReturnsFromExceptions : Obligations.DataProcessingReturnsFromExceptions := by
  intro op f c rn s hwf hc
  rw [exec_dpInstr_return hwf hc]
  exact ⟨fun _ hp hm => exceptionReturn_of_legal hp hm _, fun _ hp hm => exceptionReturn_of_illegal hp hm _,
    fun h => exceptionReturn_of_noSpsr h _⟩

/-- The link value of an exception's entry, in the mode entered. -/
theorem takeException_link {e : Exception} (he : e ≠ .reset) (s : State) : (takeException e s).x 14 = e.link s := by
  rw [takeException_of_ne_reset he, enterException_link]

/-- An aligned address is left alone by the return's masking (R323). -/
theorem align_of_alignedTo {thumb : Bool} {a : Word} (h : alignedTo thumb a = true) :
    (if thumb then alignHalf a else alignWord a) = a := by
  have hmod := (alignedTo_iff thumb a).mp h
  apply BitVec.eq_of_toNat_eq
  cases thumb <;> simp only [if_true, Bool.false_eq_true, if_false, alignHalf_toNat, alignWord_toNat] at hmod ⊢ <;> omega

/-- `t` is `s` gone on at `v`, but for the link register and the SPSR of the exception's mode. -/
def ReturnedTo (e : Exception) (v : Word) (s t : State) : Prop :=
  t.cpsr = s.cpsr ∧ t.pc = v ∧ (∀ r, physReg (some e.mode) 14 ≠ some r → t.reg r = s.reg r) ∧
    (∀ m, m ≠ e.mode → t.spsrOf m = s.spsrOf m) ∧ (∀ a, t.byte a = s.byte a) ∧ t.cpPast = s.cpPast ∧ SameOutside s t

/-- A return right after an entry restores the status that the entry saved, and changes nothing else but the pc. -/
theorem exceptionReturn_takeException {e : Exception} (he : e ≠ .reset) {s : State} (hs : s.wf = true) {v : Word}
    (hv : alignedTo s.thumb v = true) : gives (exceptionReturn (takeException e s) v) (ReturnedTo e v s) := by
  obtain ⟨hmode, -⟩ := s.wf_iff.mp hs
  refine ⟨_, exceptionReturn_next.mpr ⟨s.cpsr, takeException_spsr he s, hmode, rfl⟩, rfl, align_of_alignedTo hv, ?_⟩
  rw [takeException_of_ne_reset he]
  obtain ⟨-, -, hbytes, hout⟩ := enterException_entryFrame e (e.link s) s.cpsr s
  exact ⟨fun r hr => enterException_reg e _ _ s hr, fun m hm => enterException_spsrOf e _ _ s hm, hbytes, by simp, hout⟩

/-- `MOVS pc, lr` returns to the link. -/
theorem exec_movs_pc_link (s : State) :
    exec (.movImmShift .al true 0 15 0 .lsl 14) s = exceptionReturn s (s.x 14) :=
  exec_dpInstr_return (op := .mov) (f := .immShift 0 .lsl 14) (rn := 0) rfl rfl

/-- `SUBS pc, lr, #imm8` returns to the link less the number. -/
theorem exec_subs_pc_link (s : State) (imm8 : BitVec 8) :
    exec (.subImm .al true 14 15 0 imm8) s = exceptionReturn s (s.x 14 - imm8.setWidth 32) := by
  have hresult : (DpOp.sub.calcIn s 14 (.imm 0 imm8)).result = s.x 14 - imm8.setWidth 32 :=
    calc (DpOp.sub.calcIn s 14 (.imm 0 imm8)).result
      _ = s.x 14 - ror (imm8.setWidth 32) 0 - 0#32 := (aluIn_result .sub s 14 (.imm 0 imm8)).symm
      _ = s.x 14 - imm8.setWidth 32 := by rw [BitVec.sub_zero, ror_zero]
  rw [← hresult]
  exact exec_dpInstr_return (op := .sub) (f := .imm 0 imm8) rfl rfl

section
variable {e : Exception} {s : State} (he : e ≠ .reset) (hs : s.wf = true)
include he hs

/-- An exception that links the next instruction is returned from past the instruction. -/
theorem movs_returns_past (hlink : e.link s = s.nextPc) :
    gives (exec (.movImmShift .al true 0 15 0 .lsl 14) (takeException e s)) (ReturnedTo e s.nextPc s) := by
  obtain ⟨-, -, -, hpc, -⟩ := s.wf_iff.mp hs
  rw [exec_movs_pc_link, takeException_link he, hlink]
  exact exceptionReturn_takeException he hs (alignedTo_nextPc hpc)

/-- An exception that links `imm8` bytes past the instruction is returned from to the instruction. -/
theorem subs_returns_to {imm8 : BitVec 8} (hlink : e.link s = s.pc + imm8.setWidth 32) :
    gives (exec (.subImm .al true 14 15 0 imm8) (takeException e s)) (ReturnedTo e s.pc s) := by
  obtain ⟨-, -, -, hpc, -⟩ := s.wf_iff.mp hs
  rw [exec_subs_pc_link, takeException_link he, hlink, BitVec.add_sub_cancel]
  exact exceptionReturn_takeException he hs hpc

end

/-- Settles O17: the link of each exception is the next instruction, or its return instruction's number past this one. -/
theorem returnUndoesExceptionEntry : Obligations.ReturnUndoesExceptionEntry := by
  intro e s hs he
  cases e with
  | reset => exact absurd rfl he
  | undefined | softwareInterrupt => exact movs_returns_past he hs rfl
  | prefetchAbort | dataAbort | irq | fiq => exact subs_returns_to he hs rfl

end Sys2Proof.Machine

/-! SUPPORT AND PROOFS of the statements about exceptions and branches in ARM state. First the layer: which exception an
instruction takes by its own effect, and a branch by an offset from an instruction that links. -/

namespace Sys2Proof.Machine

/-! ## Exceptions -/

/-- Settles O13: every exception but Reset is entered by the one entry of R550. -/
theorem exceptionEntrySavesAndSwitches : Obligations.ExceptionEntrySavesAndSwitches :=
  fun _ s he => entered_takeException he s

/-- The effect of each instruction that raises an exception is to take it. -/
theorem Raises.exec_eq {i : Instr} {c : Cond} {e : Exception} (h : Raises i c e) {s : State} (hwf : i.wf = true)
    (hc : Cond.holds c s.cpsr = true) : exec i s = .next (takeException e s) := by
  cases h with
  | swi | bkpt | undefArith | undefImmCompare | undefCompare | undefMedia | undefCoprocExt =>
    exact onCondition_of_holds hwf hc _
  | tSwi | tBkpt | undefCoprocExtUncond | undefSwiUncond | undefBlockUncond | undefUncond | tUndefMisc | tUndefCond
  | tUndefBlx => exact always_of_wf hwf _

/-- No instruction raises Reset. -/
theorem Raises.ne_reset {i : Instr} {c : Cond} {e : Exception} (h : Raises i c e) : e ≠ .reset := by
  cases h <;> decide

/-- Settles O16: each takes its exception, which is none that Reset enters. -/
theorem instructionsRaiseTheirExceptions : Obligations.InstructionsRaiseTheirExceptions :=
  fun _ _ _ s h hwf hc => ⟨_, h.exec_eq hwf hc, entered_takeException h.ne_reset s⟩

/-! ## Branches in ARM state -/

section
variable {s u : State} {offset : Int}

/-- A branch in ARM state by an offset that stays in memory. -/
theorem branchTo_of_inside (hs : s.thumb = false)
    (h : 0 ≤ (s.pc.toNat : Int) + 8 + offset ∧ (s.pc.toNat : Int) + 8 + offset < 2 ^ 32) :
    branchTo u (s.branchTarget? offset) = .next (u.setPc (BitVec.ofInt 32 (s.pc.toNat + 8 + offset))) := by
  rw [State.branchTarget?, hs]
  exact congrArg (branchTo u) (if_pos h)

/-- A branch in ARM state by an offset that passes an end of memory (R29). -/
theorem branchTo_of_outside (hs : s.thumb = false)
    (h : ¬(0 ≤ (s.pc.toNat : Int) + 8 + offset ∧ (s.pc.toNat : Int) + 8 + offset < 2 ^ 32)) :
    branchTo u (s.branchTarget? offset) = .refused .addressWrap := by
  rw [State.branchTarget?, hs]
  exact congrArg (branchTo u) (if_neg h)

end

/-- Settles O30: each is a branch by its offset, BL and BLX from the state with the link written. -/
theorem armBranchesReachTheirTargets : Obligations.ArmBranchesReachTheirTargets := by
  intro c h offset24 s hc hs target inside
  have hb : exec (.b c offset24) s = branchTo s (s.branchTarget? (4 * offset24.toInt)) :=
    onCondition_of_holds (i := .b c offset24) rfl hc _
  have hbl : exec (.bl c offset24) s = branchTo (s.setX 14 (s.pc + 4)) (s.branchTarget? (4 * offset24.toInt)) :=
    onCondition_of_holds (i := .bl c offset24) rfl hc _
  have hblx : exec (.blxImm h offset24) s = branchTo ((s.setX 14 (s.pc + 4)).setCpsr (Psr.withT s.cpsr true))
      (s.branchTarget? (4 * offset24.toInt + 2 * bit h)) :=
    always_of_wf (i := .blxImm h offset24) rfl _
  have hassoc : target + 2 * bit h = s.pc.toNat + 8 + (4 * offset24.toInt + 2 * bit h) := Int.add_assoc _ _ _
  have hlinked : (s.setX 14 (s.pc + 4)).x 14 = s.pc + 4 := State.x_setX_same s _ (by decide)
  have hframe (psr : Word) : SameBut [s.phys 14] psr noBytes s (s.setX 14 (s.pc + 4)) :=
    SameBut.refl.setX 14 _ (List.mem_singleton_self _)
  refine ⟨fun hin => hb.trans (branchTo_of_inside hs hin), fun hin => ?_, fun hin => ?_, fun hout => ⟨?_, ?_⟩,
    fun hout => ?_⟩
  · refine ⟨_, hbl.trans (branchTo_of_inside hs hin), ?_, rfl, (hframe 0).setPc _⟩
    rw [State.x_setPc _ _ (by decide), hlinked]
  · rw [hassoc] at hin ⊢
    refine ⟨_, hblx.trans (branchTo_of_inside hs hin), ?_, Psr.t_withT _ _, rfl,
      ((hframe tBit).setCpsr (Psr.withT_outside _ _)).setPc _⟩
    rw [State.x_setPc _ _ (by decide), State.x_setCpsr (by decide) (by simp), hlinked]
  · exact hb.trans (branchTo_of_outside hs hout)
  · exact hbl.trans (branchTo_of_outside hs hout)
  · rw [hassoc] at hout
    exact hblx.trans (branchTo_of_outside hs hout)

end Sys2Proof.Machine

/-! SUPPORT AND PROOFS of the statements about coprocessor instructions. First the layer: the operation that each family offers
and what it does with an operation that is accepted (R440). -/

namespace Sys2Proof.Machine

/-! ## What each family does -/

section
variable {s : State} {i : Instr} {c : Cond} {cp : CpNum} {op : CpOp} {words : List Word} {regs : List Reg}

/-- CDP, MCR and MCRR hand over an operation and its words. -/
theorem CpSends.exec_eq (h : CpSends s i c cp op words) (hwf : i.wf = true) (hc : Cond.holds c s.cpsr = true) :
    exec i s = sendToCp s cp op words := by
  cases h with
  | cdp | mcr | mcrr => exact onCondition_of_holds hwf hc _
  | cdp2 | mcr2 => exact always_of_wf hwf _

/-- MRC takes one word, MRRC one for each of two registers (R443, R447). -/
theorem CpReceives.exec_eq (h : CpReceives s i c cp op regs) (hwf : i.wf = true) (hc : Cond.holds c s.cpsr = true) :
    (∃ rd, regs = [rd] ∧ exec i s = moveFromCp s cp op rd) ∨
      (∃ rd rn, regs = [rd, rn] ∧ rd ≠ rn ∧ exec i s = movePairFromCp s cp op rd rn) := by
  cases h with
  | mrc c o1 crn rd => exact .inl ⟨rd, rfl, onCondition_of_holds hwf hc _⟩
  | mrc2 o1 crn rd => exact .inl ⟨rd, rfl, always_of_wf hwf _⟩
  | mrrc c rn rd =>
    have hne : rd ≠ rn := by
      simp only [Instr.wf, Bool.and_eq_true, bne_iff_ne] at hwf
      exact hwf.2
    exact .inr ⟨rd, rn, rfl, hne, onCondition_of_holds hwf hc _⟩

/-- Every coprocessor instruction begins with the offer of its operation. -/
theorem Offers.exec_eq (h : Offers s i c cp op words) (hwf : i.wf = true) (hc : Cond.holds c s.cpsr = true) :
    ∃ k, exec i s = offer s cp op words k := by
  cases h with
  | sends _ h => exact ⟨_, h.exec_eq hwf hc⟩
  | receives _ h =>
    obtain ⟨rd, -, hexec⟩ | ⟨rd, rn, -, -, hexec⟩ := h.exec_eq hwf hc
    · exact ⟨_, hexec⟩
    · exact ⟨_, hexec⟩
  | transfers _ store h =>
    have hexec := h.exec_eq hwf hc
    cases store with
    | false => exact ⟨_, hexec⟩
    | true => exact ⟨_, hexec⟩

theorem offer_of_rejects {k : BitVec 4 → Result} (h : s.accepts? cp op words = none) :
    offer s cp op words k = undefinedInstruction s := by
  rw [offer, h]

end

/-- Settles O51: what is offered and not accepted is an Undefined Instruction. -/
theorem rejectedCoprocessorInstructionsTrap : Obligations.RejectedCoprocessorInstructionsTrap := by
  intro s i c cp op words h hwf hc hnone
  obtain ⟨k, hexec⟩ := h.exec_eq hwf hc
  exact ⟨_, hexec.trans (offer_of_rejects (State.accepts?_eq_none hnone)), entered_takeException (by decide) s⟩

/-- Settles O52: an accepted operation is recorded, and the pc goes on. -/
theorem acceptedOperationsReachTheCoprocessor : Obligations.AcceptedOperationsReachTheCoprocessor := by
  intro s i c cp op words h hwf hc hs haccept
  obtain ⟨lessOne, haccept⟩ := Option.isSome_iff_exists.mp haccept
  calc exec i s
    _ = sendToCp s cp op words := h.exec_eq hwf hc
    _ = advance (s.cpTake cp op words) := offer_of_accepts haccept
    _ = _ := advance_of_armReady hs rfl rfl

/-! ## Words from a coprocessor -/

section
variable {s : State} {cp : CpNum} {op : CpOp} {lessOne : BitVec 4}

/-- A status whose N, Z, C and V are the top four bits of a word (R443). -/
theorem Psr.withNZCV_top (p v : Word) :
    Psr.withNZCV p (v.getLsbD 31) (v.getLsbD 30) (v.getLsbD 29) (v.getLsbD 28) &&& nzcvBits = v &&& nzcvBits := by
  have htop : ∀ k, k < 4 → (Psr.withNZCV p (v.getLsbD 31) (v.getLsbD 30) (v.getLsbD 29) (v.getLsbD 28)).getLsbD (28 + k) =
      v.getLsbD (28 + k) := by
    intro k hk
    obtain rfl | rfl | rfl | rfl : k = 0 ∨ k = 1 ∨ k = 2 ∨ k = 3 := by omega
    · exact Psr.v_withNZCV _ _ _ _ _
    · exact Psr.c_withNZCV _ _ _ _ _
    · exact Psr.z_withNZCV _ _ _ _ _
    · exact Psr.n_withNZCV _ _ _ _ _
  apply BitVec.eq_of_getLsbD_eq
  intro k hk
  rw [BitVec.getLsbD_and, BitVec.getLsbD_and, nzcvBits_getLsbD k hk]
  by_cases h28 : 28 ≤ k
  · obtain ⟨j, rfl⟩ := Nat.exists_eq_add_of_le h28
    rw [htop j (by omega)]
  · rw [decide_eq_false h28, Bool.and_false, Bool.and_false]

/-- An accepted MRC to the flags. -/
theorem moveFromCp_pc_gives (hs : s.armReady) (haccept : s.accepts? cp op [] = some lessOne) :
    gives (moveFromCp s cp op 15) fun t =>
      t.cpsr &&& nzcvBits = s.cpWord cp op 0 &&& nzcvBits ∧ t.pc = s.pc + 4 ∧ SameBut [] nzcvBits noBytes s t := by
  refine ⟨_, (offer_of_accepts haccept).trans (advance_of_armReady hs rfl (Psr.t_withNZCV _ _ _ _ _)), ?_, rfl, ?_⟩
  · exact Psr.withNZCV_top _ _
  · exact (SameBut.refl.setCpsr (Psr.withNZCV_outside _ _ _ _ _)).setPc _

/-- An accepted MRC to a register. -/
theorem moveFromCp_gives (hs : s.armReady) (haccept : s.accepts? cp op [] = some lessOne) {rd : Reg} (hrd : rd ≠ 15) :
    gives (moveFromCp s cp op rd) fun t =>
      t.x rd = s.cpWord cp op 0 ∧ t.pc = s.pc + 4 ∧ SameBut [s.phys rd] 0 noBytes s t := by
  rw [moveFromCp, offer_of_accepts haccept]
  simp only [if_neg hrd]
  exact advance_setX_gives hs hrd _

/-- An accepted MRRC: the first word to Rd, the second to Rn (R447). -/
theorem movePairFromCp_gives (hs : s.armReady) (haccept : s.accepts? cp op [] = some lessOne) {rd rn : Reg}
    (hrd : rd ≠ 15) (hrn : rn ≠ 15) (hne : rd ≠ rn) :
    gives (movePairFromCp s cp op rd rn) fun t =>
      t.x rd = s.cpWord cp op 0 ∧ t.x rn = s.cpWord cp op 1 ∧ t.pc = s.pc + 4 ∧
      SameBut [s.phys rd, s.phys rn] 0 noBytes s t := by
  refine ⟨_, (offer_of_accepts haccept).trans (advance_of_armReady hs (by simp) (by simp)), ?_, ?_, rfl, ?_⟩
  · rw [State.x_setPc _ _ hrd, State.x_setX_ne _ _ hne, State.x_setX_same _ _ hrd]
  · rw [State.x_setPc _ _ hrn, State.x_setX_same _ _ hrn]
  · exact ((SameBut.refl.setX rd _ (by simp)).setX rn _ (by simp [State.phys])).setPc _

end

/-- Settles O53: the words go to the registers in order, and only a single one to the flags. -/
theorem coprocessorWordsReachRegisters : Obligations.CoprocessorWordsReachRegisters := by
  intro s i c cp op regs h hwf hc hs haccept
  obtain ⟨lessOne, haccept⟩ := Option.isSome_iff_exists.mp haccept
  obtain ⟨rd, rfl, hexec⟩ | ⟨rd, rn, rfl, hne, hexec⟩ := h.exec_eq hwf hc
  · rw [hexec]
    refine ⟨fun h15 => ?_, fun h15 => ?_⟩
    · obtain ⟨t, ht, hx, hend⟩ := moveFromCp_gives hs haccept (Ne.symm (List.ne_of_not_mem_cons h15))
      refine ⟨t, ht, fun k r hr => ?_, hend⟩
      match k with
      | 0 => exact Option.some.inj hr ▸ hx
    · obtain rfl : rd = 15 := List.singleton_inj.mp h15
      exact moveFromCp_pc_gives hs haccept
  · rw [hexec]
    refine ⟨fun h15 => ?_, nofun⟩
    obtain ⟨hrd, hrn⟩ : rd ≠ 15 ∧ rn ≠ 15 := by simpa [eq_comm] using h15
    obtain ⟨t, ht, hxd, hxn, hend⟩ := movePairFromCp_gives hs haccept hrd hrn hne
    refine ⟨t, ht, fun k r hr => ?_, hend⟩
    match k with
    | 0 => exact Option.some.inj hr ▸ hxd
    | 1 => exact Option.some.inj hr ▸ hxn

end Sys2Proof.Machine

/-! SUPPORT AND PROOFS of the statements about ARM stores of one register and about the addresses of block transfers. First the
layer: going on to the next instruction in either instruction set, and the bytes that a store writes; then the registers of a
list, which the block transfers need. -/

namespace Sys2Proof.Machine

/-- What leaves the pc and T alone goes on to the next instruction, in either instruction set. -/
theorem advance_of_hasRoom {s u : State} (hs : s.hasRoom) (hpc : u.pc = s.pc) (ht : u.thumb = s.thumb) :
    advance u = .next (u.setPc s.nextPc) := by
  have hw : u.width = s.width := by rw [State.width, State.width, ht]
  rw [advance_of_room (by rwa [State.hasRoom, hpc, hw]), State.nextPc_congr hpc ht]

/-! ## Stores of one register -/

/-- The lowest `n` bytes of a word in address order. -/
def lowBytes (bigend : Bool) (n : Nat) (v : Word) : List Byte :=
  (List.range n).map (byteOf bigend n (v.toNat % 256 ^ n))

@[simp] theorem lowBytes_length (bigend : Bool) (n : Nat) (v : Word) : (lowBytes bigend n v).length = n := by
  simp [lowBytes]

theorem splitWord_eq_lowBytes (bigend : Bool) (v : Word) : splitWord bigend v = lowBytes bigend 4 v := by
  rw [splitWord_eq, lowBytes, Nat.mod_eq_of_lt (b := 256 ^ 4) v.isLt]
  rfl

theorem splitHalf_eq_lowBytes (bigend : Bool) (v : Word) : splitHalf bigend (v.setWidth 16) = lowBytes bigend 2 v := by
  rw [splitHalf_eq, BitVec.toNat_setWidth]
  rfl

theorem lowByte_eq_lowBytes (bigend : Bool) (v : Word) : [v.setWidth 8] = lowBytes bigend 1 v := by
  have hbyte : byteOf bigend 1 (v.toNat % 256 ^ 1) 0 = v.setWidth 8 := by
    apply BitVec.eq_of_toNat_eq
    cases bigend <;> simp [byteOf]
  rw [← hbyte]
  rfl

/-- A store of the lowest bytes of a word makes memory hold what they are. -/
theorem State.holds_storeLowBytes (s : State) (a v : Word) {n : Nat} (hn : n ≤ 2 ^ 32) :
    (s.storeBytes a (lowBytes s.settings.bigend n v)).holds a n (v.toNat % 256 ^ n) :=
  State.holds_storeBytes (Nat.mod_lt _ (by positivity)) hn (lowBytes_length _ _ _) fun k hk => by
    rw [lowBytes, List.getElem?_map, List.getElem?_range hk]
    rfl

section
variable {s : State} {privileged : Bool} {m : Address} {v : Word}

/-- A word store that nothing keeps from running. -/
theorem storeWord_of_admits (hal : m.start.toNat % 4 = 0 ∨ s.settings.alignFault = false)
    (hadmit : s.settings.aborts .write privileged 4 (alignWord m.start) = false) :
    storeWord s privileged m v =
      advance ((s.storeBytes (alignWord m.start) (lowBytes s.settings.bigend 4 v)).writeBack m.writeBack) := by
  rw [storeWord, if_neg (State.passes_alignment hal), State.writeWord_of_admits hadmit, splitWord_eq_lowBytes]
  rfl

/-- A halfword store to an even address that nothing keeps from running. -/
theorem storeHalf_of_admits (hal : m.start.toNat % 2 = 0)
    (hadmit : s.settings.aborts .write s.privileged 2 m.start = false) :
    storeHalf s m v = advance ((s.storeBytes m.start (lowBytes s.settings.bigend 2 v)).writeBack m.writeBack) := by
  rw [storeHalf, if_neg (mt (getLsbD_zero_iff _).mp (by omega)), ← splitHalf_eq_lowBytes]
  exact congrArg (finishStore s · m.writeBack) (State.writeBytes_some.mpr ⟨by rwa [splitHalf_length], rfl⟩)

/-- A byte store that nothing keeps from running. -/
theorem storeByte_of_admits (hadmit : s.settings.aborts .write privileged 1 m.start = false) :
    storeByte s privileged m v =
      advance ((s.storeBytes m.start (lowBytes s.settings.bigend 1 v)).writeBack m.writeBack) := by
  rw [storeByte, State.writeByte_of_admits hadmit, lowByte_eq_lowBytes]
  rfl

/-- The end of a store: the bytes, then the base, then the next instruction. -/
theorem store_gives (hs : s.hasRoom) (hbase : ∀ rn b, m.writeBack = some (rn, b) → rn ≠ 15) (a : Word) {n : Nat}
    (hn : n ≤ 2 ^ 32) :
    gives (advance ((s.storeBytes a (lowBytes s.settings.bigend n v)).writeBack m.writeBack)) fun t =>
      t.holds a n (v.toNat % 256 ^ n) ∧ BaseWritten m t ∧ t.pc = s.nextPc ∧
      SameBut (s.basePhys m) 0 (bytesAt a n) s t := by
  refine ⟨_, advance_of_hasRoom hs (by simp) (by simp), ?_, fun rn b hw => ?_, rfl, ?_⟩
  · exact (State.holds_congr (by simp) (by simp)).mpr (s.holds_storeLowBytes a v hn)
  · rw [State.x_setPc _ _ (hbase rn b hw), State.x_writeBack hw (hbase rn b hw)]
  · have hstored := SameBut.refl.storeBytes (regs := s.basePhys m) (psr := 0) (s := s) a
      (lowBytes s.settings.bigend n v) fun _ hb => hb
    rw [lowBytes_length] at hstored
    exact (hstored.writeBack fun rn b hw => by simpa using State.mem_basePhys hw).setPc _

end

section
variable {s : State} {i : Instr} {c : Cond} {privileged : Bool} {m : Address} {n : Nat} {v : Word}

theorem Stores.width (h : Stores s i c privileged m n v) : n ≤ 2 ^ 32 := by
  cases h <;> decide

/-- Every store has an indexed address whose restrictions its well-formedness includes. -/
theorem Stores.base_ne (h : Stores s i c privileged m n v) (hwf : i.wf = true) {rn : Reg} {b : Word}
    (hw : m.writeBack = some (rn, b)) : rn ≠ 15 := by
  cases h with
  | strReg =>
    simp only [Instr.wf, wordRegOk, wordImmOk, Bool.and_eq_true] at hwf
    obtain ⟨⟨-, hbase⟩, -⟩ := hwf
    exact (baseOk_writeBack hbase hw).1
  | strImm =>
    simp only [Instr.wf, wordImmOk, Bool.and_eq_true] at hwf
    exact (baseOk_writeBack hwf.2 hw).1
  | strtReg =>
    simp only [Instr.wf, transRegOk, transImmOk, Bool.and_eq_true] at hwf
    exact (baseOk_writeBack hwf.1 hw).1
  | strtImm c u rn rd imm12 =>
    have hbase : baseOk false true rn rd = true := hwf
    exact (baseOk_writeBack hbase hw).1
  | strbReg =>
    simp only [Instr.wf, wordRegOk, wordImmOk, Bool.and_eq_true] at hwf
    obtain ⟨⟨⟨-, hbase⟩, -⟩, -⟩ := hwf
    exact (baseOk_writeBack hbase hw).1
  | strbImm =>
    simp only [Instr.wf, wordImmOk, Bool.and_eq_true] at hwf
    obtain ⟨⟨-, hbase⟩, -⟩ := hwf
    exact (baseOk_writeBack hbase hw).1
  | strbtReg =>
    simp only [Instr.wf, transRegOk, transImmOk, Bool.and_eq_true] at hwf
    obtain ⟨⟨hbase, -⟩, -⟩ := hwf
    exact (baseOk_writeBack hbase hw).1
  | strbtImm =>
    simp only [Instr.wf, transImmOk, Bool.and_eq_true] at hwf
    exact (baseOk_writeBack hwf.1 hw).1
  | strhReg => exact (baseOk_writeBack (halfImmOk_registers (halfImmOk_of_halfRegOk hwf)).2 hw).1
  | strhImm => exact (baseOk_writeBack (halfImmOk_registers hwf).2 hw).1

/-- Every store that nothing keeps from running writes the lowest bytes of its value, a word at the aligned address. -/
theorem Stores.exec_of_admits (h : Stores s i c privileged m n v) (hwf : i.wf = true) (hc : Cond.holds c s.cpsr = true)
    (hword : n = 4 → m.start.toNat % 4 = 0 ∨ s.settings.alignFault = false) (hhalf : n = 2 → m.start.toNat % 2 = 0)
    (hadmit : s.settings.aborts .write privileged n (if n = 4 then alignWord m.start else m.start) = false) :
    exec i s = advance ((s.storeBytes (if n = 4 then alignWord m.start else m.start)
      (lowBytes s.settings.bigend n v)).writeBack m.writeBack) := by
  cases h with
  | strReg | strImm | strtReg | strtImm =>
    exact (onCondition_of_holds hwf hc _).trans (storeWord_of_admits (hword rfl) hadmit)
  | strbReg | strbImm | strbtReg | strbtImm => exact (onCondition_of_holds hwf hc _).trans (storeByte_of_admits hadmit)
  | strhReg | strhImm =>
    exact (onCondition_of_holds hwf hc _).trans (storeHalf_of_admits (hhalf rfl) hadmit)

end

/-- Settles O44: a store that nothing keeps from running ends with its bytes and its base. -/
theorem storesWriteTheirBytesAlone : Obligations.StoresWriteTheirBytesAlone := by
  intro s i c privileged m n v h hwf hc hs a hword hhalf hadmit
  rw [h.exec_of_admits hwf hc hword hhalf hadmit, ← State.nextPc_arm hs.1]
  exact store_gives hs.2 (fun _ _ hw => h.base_ne hwf hw) a h.width

/-! ## The registers of a list -/

theorem mem_listRegs {list : BitVec 16} {i : Reg} : i ∈ listRegs list ↔ list.getLsbD i.toNat = true := by
  simp only [listRegs, List.mem_filterMap, List.mem_range]
  constructor
  · rintro ⟨k, hk, h⟩
    split at h
    · cases h
      rwa [BitVec.toNat_ofNat, Nat.mod_eq_of_lt hk]
    · cases h
  · intro h
    exact ⟨i.toNat, i.isLt, by simp [h]⟩

/-- The registers of a list stand in rising order (R157). -/
theorem pairwise_listRegs (list : BitVec 16) : (listRegs list).Pairwise fun i j => i.toNat < j.toNat := by
  have hrange : (List.range 16).Pairwise fun j k => j < k ∧ k < 16 :=
    List.pairwise_lt_range.imp_of_mem fun _ hk hlt => ⟨hlt, List.mem_range.mp hk⟩
  refine hrange.filterMap _ fun j k hjk i hi i' hi' => ?_
  obtain ⟨-, hi⟩ := Option.ite_none_right_eq_some.mp hi
  obtain ⟨-, hi'⟩ := Option.ite_none_right_eq_some.mp hi'
  rw [← Option.some.inj hi, ← Option.some.inj hi', BitVec.toNat_ofNat, BitVec.toNat_ofNat]
  omega

theorem nodup_listRegs (list : BitVec 16) : (listRegs list).Nodup :=
  (pairwise_listRegs list).imp fun hlt e => absurd (congrArg BitVec.toNat e) (Nat.ne_of_lt hlt)

theorem ne_fifteen_of_mem_listRegs {list : BitVec 16} (h : list.getLsbD 15 = false) {r : Reg} (hr : r ∈ listRegs list) :
    r ≠ 15 := by
  rintro rfl
  exact Bool.noConfusion (h.symm.trans (mem_listRegs.mp hr))

/-- A block transfer that counts up starts at the base, or with P a word above it (R390). -/
theorem blockStart_up (p : Bool) (base : Word) (n : Nat) : blockStart p true base n = base + if p then 4 else 0 := by
  cases p with
  | false => exact (BitVec.add_zero base).symm
  | true => rfl

/-- A block transfer that counts down starts its length below where it would end (R390). -/
theorem blockStart_down (p : Bool) (base : Word) (n : Nat) :
    blockStart p false base n + BitVec.ofNat 32 (4 * n) = base + if p then 0 else 4 := by
  cases p <;> simp only [blockStart, if_true, Bool.false_eq_true, if_false] <;> bv_omega

/-- Settles O23: the order is that of the list's bits, and each row of the table is one of the two directions. -/
theorem blockAddressesAsTabled : Obligations.BlockAddressesAsTabled := by
  intro list p u w rn base n m
  refine ⟨fun i => mem_listRegs, pairwise_listRegs list, fun hu => ?_, fun hu => ?_, rfl⟩
  · subst hu
    exact blockStart_up p base n
  · subst hu
    exact blockStart_down p base n

end Sys2Proof.Machine

/-! SUPPORT AND PROOFS of the statements about block transfers, those of coprocessors among them. First the layer: what is read and
written by a sequence of words that nothing keeps from running, the state after the registers of a list are loaded, and the
User bank as the bank of User mode. -/

namespace Sys2Proof.Machine

/-! ## Sequences of words that nothing keeps from running -/

section
variable {s : State} {m : Address} {vs : List Word}

/-- Words that are admitted and held are loaded, whatever is done with them. -/
theorem loadBlock_of_holdsWords {n : Nat} {k : List Word → Result} (hn : vs.length = n)
    (hok : s.blockOk m.start vs.length) (hadmit : s.admits .read m.start vs.length) (h : s.holdsWords m.start vs) :
    loadBlock s m n k = k vs := by
  subst hn
  rw [loadBlock_of_aligned (hok.2.imp_left (lowTwo_eq_zero _).mp) hok.1, State.readBlock_of_holdsWords hadmit h]
  rfl

/-- Words that are admitted are stored, then the base, then the next instruction, in either instruction set. -/
theorem storeBlock_gives (hs : s.hasRoom) (hbase : ∀ rn v, m.writeBack = some (rn, v) → rn ≠ 15)
    (hok : s.blockOk m.start vs.length) (hadmit : s.admits .write m.start vs.length) :
    gives (storeBlock s m vs) fun t =>
      t.holdsWords m.start vs ∧ BaseWritten m t ∧ t.pc = s.nextPc ∧
      SameBut (s.basePhys m) 0 (bytesAt (alignWord m.start) (4 * vs.length)) s t := by
  obtain ⟨hfit, hal⟩ := hok
  have hdone : (s.writeBlock s.privileged m.start vs).2 = false := State.writeBlock_admitted hadmit
  have hrun : storeBlock s m vs = advance ((s.writeBlock s.privileged m.start vs).1.writeBack m.writeBack) :=
    (storeBlock_of_aligned (hal.imp_left (lowTwo_eq_zero _).mp) hfit).trans (if_neg (Bool.eq_false_iff.mp hdone))
  refine ⟨_, hrun.trans (advance_of_hasRoom hs (by simp) (by simp [State.thumb])), fun k v hk => ?_, fun rn v hw => ?_, rfl,
    ?_⟩
  · exact (State.holds_congr (by simp) (by simp)).mpr (State.holds_writeBlock (by omega) hdone hk)
  · rw [State.x_setPc _ _ (hbase rn v hw), State.x_writeBack hw (hbase rn v hw)]
  · have hstored := (sameBut_writeBlock s s.privileged m.start vs).mono_regs (List.nil_subset (s.basePhys m))
    refine (hstored.writeBack fun rn v hw => ?_).setPc _
    simpa [State.phys] using State.mem_basePhys (s := s) hw

end

/-! ## Loading the registers of a list -/

/-- The state after the registers of a list have their words and the base is written. -/
def State.loaded (s : State) (m : Address) (regs : List Reg) (vs : List Word) : State :=
  (s.setXs (regs.zip vs)).writeBack m.writeBack

/-- A base that is written is neither the pc nor loaded (R394, R398). -/
def Address.baseApart (m : Address) (regs : List Reg) : Prop :=
  ∀ rn v, m.writeBack = some (rn, v) → rn ≠ 15 ∧ rn ∉ regs

section
variable (s : State) (m : Address) (regs : List Reg) (vs : List Word)

@[simp] theorem State.loaded_pc : (s.loaded m regs vs).pc = s.pc := by simp [State.loaded]

@[simp] theorem State.loaded_cpsr : (s.loaded m regs vs).cpsr = s.cpsr := by simp [State.loaded]

@[simp] theorem State.loaded_mode : (s.loaded m regs vs).mode = s.mode := by simp [State.loaded]

@[simp] theorem State.loaded_thumb : (s.loaded m regs vs).thumb = s.thumb := by simp [State.loaded]

@[simp] theorem State.loaded_spsr : (s.loaded m regs vs).spsr? = s.spsr? := by simp [State.loaded]

end

section
variable {regs : List (Option PhysReg)} {psr : Word} {touched : Word → Prop} {s u : State}

/-- Writes of registers that the frame names. -/
theorem SameBut.setXs (h : SameBut regs psr touched s u) {l : List (Reg × Word)} (hl : ∀ w, w ∈ l → u.phys w.1 ∈ regs) :
    SameBut regs psr touched s (u.setXs l) := by
  induction l generalizing u with
  | nil => exact h
  | cons w l ih =>
    refine ih (h.setX w.1 w.2 (hl w (by simp))) fun w' hw' => ?_
    simpa [State.phys] using hl w' (by simp [hw'])

/-- A write of a register of the User bank that the frame names. -/
theorem SameBut.setXUsr (h : SameBut regs psr touched s u) (i : Reg) (v : Word) (hi : physReg (some .usr) i ∈ regs) :
    SameBut regs psr touched s (u.setXUsr i v) := by
  obtain ⟨hregs, hpsr, hspsrs, hbytes, hcp, hout⟩ := h
  refine ⟨fun r hr => (State.reg_setXUsr v fun e => hr (e ▸ hi)).trans (hregs r hr), by simpa using hpsr,
    fun m => by simpa using hspsrs m, fun a ha => by simpa using hbytes a ha, by simpa using hcp, ?_⟩
  simpa [SameOutside] using hout

theorem SameBut.setXsUsr (h : SameBut regs psr touched s u) {l : List (Reg × Word)}
    (hl : ∀ w, w ∈ l → physReg (some .usr) w.1 ∈ regs) : SameBut regs psr touched s (u.setXsUsr l) := by
  induction l generalizing u with
  | nil => exact h
  | cons w l ih => exact ih (h.setXUsr w.1 w.2 (hl w (by simp))) fun w' hw' => hl w' (by simp [hw'])

end

section
variable {s : State} {m : Address} {regs : List Reg} {vs : List Word}

/-- The frame of a load of several registers. -/
theorem SameBut.loaded {psr : Word} {touched : Word → Prop} :
    SameBut (regs.map s.phys ++ s.basePhys m) psr touched s (s.loaded m regs vs) := by
  have hfilled : SameBut (regs.map s.phys ++ s.basePhys m) psr touched s (s.setXs (regs.zip vs)) :=
    SameBut.refl.setXs fun w hw => List.mem_append_left _ (List.mem_map_of_mem (List.of_mem_zip hw).1)
  refine hfilled.writeBack fun rn v hw => List.mem_append_right _ ?_
  simpa [State.phys] using State.mem_basePhys (s := s) hw

theorem State.x_writeBack_ne {w : Option (Reg × Word)} {i : Reg} (h : ∀ v, w ≠ some (i, v)) :
    (s.writeBack w).x i = s.x i := by
  cases w with
  | none => rfl
  | some w => exact State.x_setX_ne s w.2 fun e => h w.2 (congrArg (fun r => some (r, w.2)) e.symm)

/-- Each register of the list has its word. -/
theorem State.x_loaded (hnodup : regs.Nodup) (hbase : m.baseApart regs) {k : Nat} {r : Reg} {v : Word}
    (hr : regs[k]? = some r) (h15 : r ≠ 15) (hv : vs[k]? = some v) : (s.loaded m regs vs).x r = v := by
  have hmem : r ∈ regs := List.mem_of_getElem? hr
  rw [State.loaded, State.x_writeBack_ne fun b hw => (hbase r b hw).2 hmem, State.x_setXs_zip hnodup hr hv h15]

theorem State.x_loaded_base (hbase : m.baseApart regs) {rn : Reg} {v : Word} (hw : m.writeBack = some (rn, v)) :
    (s.loaded m regs vs).x rn = v :=
  State.x_writeBack hw (hbase rn v hw).1

end

/-! ## LDM (1), POP and LDMIA -/

section
variable {s : State} {i : Instr} {c : Cond} {m : Address} {list : BitVec 16}

/-- A block transfer that writes a base writes its own (R390). -/
theorem block_writeBack {p u w : Bool} {rn r : Reg} {base v : Word}
    (h : (block p u w rn base list).writeBack = some (r, v)) : w = true ∧ r = rn := by
  cases w with
  | false => cases h
  | true => exact ⟨rfl, (congrArg Prod.fst (Option.some.inj h)).symm⟩

/-- What is not in a list is not among its registers. -/
theorem not_mem_listRegs {r : Reg} (h : list.getLsbD r.toNat = false) : r ∉ listRegs list :=
  fun hmem => Bool.noConfusion (h.symm.trans (mem_listRegs.mp hmem))

theorem lowReg_ne_fifteen (r : LowReg) : lowReg r ≠ 15 := by
  revert r
  decide

/-- The list of a Thumb transfer names low registers by their three-bit numbers. -/
theorem getLsbD_lowList (list : BitVec 8) (r : LowReg) : (lowList list).getLsbD (lowReg r).toNat = list.getLsbD r.toNat := by
  have hr : r.toNat < 8 := r.isLt
  rw [lowList, lowReg, BitVec.getLsbD_append, BitVec.toNat_append]
  simp [hr]

/-- POP does not load its base, register 13. -/
theorem getLsbD_popList_thirteen (pc : Bool) (list : BitVec 8) : (popList pc list).getLsbD 13 = false := by
  rw [popList, BitVec.getLsbD_append, BitVec.getLsbD_append]
  rfl

theorem LoadsBlock.baseApart (h : LoadsBlock s i c m list) (hwf : i.wf = true) : m.baseApart (listRegs list) := by
  intro r v hw
  cases h with
  | ldm1 c p u w rn list =>
    obtain ⟨rfl, rfl⟩ := block_writeBack hw
    simp only [Instr.wf, notPc, inList, Bool.and_eq_true, bne_iff_ne, Bool.true_and, Bool.not_eq_true'] at hwf
    obtain ⟨⟨-, h15⟩, hlist⟩ := hwf
    exact ⟨h15, not_mem_listRegs hlist⟩
  | tPop pc list =>
    obtain ⟨-, rfl⟩ := block_writeBack hw
    exact ⟨by decide, not_mem_listRegs (getLsbD_popList_thirteen pc list)⟩
  | tLdmia rn list =>
    obtain ⟨hlist, rfl⟩ := block_writeBack hw
    refine ⟨lowReg_ne_fifteen rn, not_mem_listRegs ?_⟩
    rw [getLsbD_lowList]
    simpa using hlist

end

/-- Settles O48: all words are read before a register is written, and the branch is by the last of them. -/
theorem blockLoadsFillTheirRegisters : Obligations.BlockLoadsFillTheirRegisters := by
  intro s i c m list vs h hwf hc hs hlen hok hadmit hholds filled regs
  have hbase := h.baseApart hwf
  let u := s.loaded m (listRegs list) vs
  have hrun : exec i s = if list.getLsbD 15 then branchExchange u (vs.getLastD 0) else advance u :=
    (h.exec_eq hwf hc).trans (loadBlock_of_holdsWords hlen hok hadmit hholds)
  have hfilled : ∀ t : State, (∀ j, j ≠ 15 → t.x j = u.x j) → filled t := fun t ht =>
    ⟨fun k r v hr h15 hv => (ht r h15).trans (State.x_loaded (nodup_listRegs list) hbase hr h15 hv),
      fun rn v hw => (ht rn (hbase rn v hw).1).trans (State.x_loaded_base hbase hw)⟩
  refine ⟨fun hpc => ?_, fun v hpc hlast => ?_⟩
  · rw [hrun, hpc]
    exact ⟨_, advance_of_hasRoom hs.2 (by simp [u]) (by simp [u]), hfilled _ fun j hj => State.x_setPc u _ hj, rfl,
      SameBut.loaded.setPc _⟩
  · have hv : vs.getLastD 0 = v := by rw [List.getLastD_eq_getLast?, hlast, Option.getD_some]
    rw [hrun, hpc, hv]
    refine ⟨fun h2 => ?_, fun h2 => branchExchange_refused h2⟩
    refine ⟨_, branchExchange_next.mpr ⟨h2, rfl⟩, hfilled _ fun j hj => ?_, Psr.t_withT _ _, rfl, ?_⟩
    · rw [State.x_setPc _ _ hj, State.x_setCpsr hj (Psr.m_withT _ _)]
    · refine (SameBut.loaded.setCpsr ?_).setPc _
      rw [State.loaded_cpsr]
      exact Psr.withT_outside _ _

/-! ## STM (1), PUSH and STMIA -/

theorem StoresBlock.base_ne {s : State} {i : Instr} {c : Cond} {m : Address} {list : BitVec 16}
    (h : StoresBlock s i c m list) (hwf : i.wf = true) {r : Reg} {v : Word} (hw : m.writeBack = some (r, v)) : r ≠ 15 := by
  cases h with
  | stm1 c p u w rn list =>
    obtain ⟨-, rfl⟩ := block_writeBack hw
    simp only [Instr.wf, notPc, Bool.and_eq_true, bne_iff_ne] at hwf
    exact hwf.2
  | tPush =>
    obtain ⟨-, rfl⟩ := block_writeBack hw
    decide
  | tStmia rn =>
    obtain ⟨-, rfl⟩ := block_writeBack hw
    exact lowReg_ne_fifteen rn

/-- Settles O49: the words of the registers are read before the base is written, and the free value that a base may have is the
word of no register that the statement speaks of. -/
theorem blockStoresWriteTheirWordsAlone : Obligations.BlockStoresWriteTheirWordsAlone := by
  intro s i c m list h hwf hc hs n hok hadmit
  let words := (listRegs list).map (s.blockValue m (listRegs list))
  let free := bit ((listRegs list).any (storesFree m (listRegs list)))
  have hlen : words.length = n := List.length_map _
  obtain ⟨t, ht, hheld, hbase, hpc, hframe⟩ := storeBlock_gives (s := s.useFree free) (m := m) (vs := words) hs.2
    (fun _ _ hw => h.base_ne hwf hw) (hlen ▸ hok) (hlen ▸ hadmit)
  refine ⟨t, (h.exec_eq hwf hc).trans ht, fun k r hr hstated => ?_, hbase, hpc, hlen ▸ hframe⟩
  refine hheld k (s.storedValue r) ?_
  rw [List.getElem?_map, hr, Option.map_some, State.blockValue_of_stated hr hstated]

/-! ## The User bank -/

/-- The state in User mode, whose numbers name the registers of the User bank. -/
def State.asUser (s : State) : State := s.setCpsr 0x10

@[simp] theorem State.asUser_mode (s : State) : s.asUser.mode = some .usr := rfl

theorem State.asUser_setXUsr (s : State) (i : Reg) (v : Word) : (s.setXUsr i v).asUser = s.asUser.setX i v := by
  unfold State.setXUsr State.setX
  rw [State.asUser_mode]
  split <;> rfl

theorem State.asUser_setXsUsr (s : State) (l : List (Reg × Word)) : (s.setXsUsr l).asUser = s.asUser.setXs l := by
  induction l generalizing s with
  | nil => rfl
  | cons w l ih => rw [State.setXsUsr, ih, State.asUser_setXUsr, State.setXs]

theorem State.xUsr_eq (s : State) {i : Reg} (hi : i ≠ 15) : s.xUsr i = s.asUser.x i := by
  obtain ⟨r, hr⟩ := exists_physReg (some .usr) hi
  rw [State.x_of_physReg (s := s.asUser) hr, State.xUsr, hr]
  rfl

/-- Each register of the list has its word in the User bank. -/
theorem State.xUsr_setXsUsr_zip {s : State} {regs : List Reg} {vs : List Word} (hnodup : regs.Nodup) {k : Nat} {r : Reg}
    {v : Word} (hr : regs[k]? = some r) (hv : vs[k]? = some v) (h15 : r ≠ 15) :
    (s.setXsUsr (regs.zip vs)).xUsr r = v := by
  rw [State.xUsr_eq _ h15, State.asUser_setXsUsr, State.x_setXs_zip hnodup hr hv h15]

/-! ## LDM (2), LDM (3) and STM (2) -/

section
variable {s : State} {m : Address} {list : BitVec 16} {vs : List Word}

theorem loadUser_of_noSpsr (h : s.spsr? = none) : loadUser s m list = .refused .noSpsr := by
  simp [loadUser, h]

theorem loadReturn_of_noSpsr (h : s.spsr? = none) : loadReturn s m list = .refused .noSpsr := by
  simp [loadReturn, h]

theorem storeUser_of_noSpsr (h : s.spsr? = none) : storeUser s m list = .refused .noSpsr := by
  simp [storeUser, h]

/-- A list of fifteen bits does not name the pc. -/
theorem getLsbD_zero_append (list : BitVec 15) : (0#1 ++ list).getLsbD 15 = false := by
  rw [BitVec.getLsbD_append]
  rfl

/-- A bit for the pc above a list leaves the bits of the other registers. -/
theorem getLsbD_listBelow (pc : BitVec 1) (list : BitVec 15) {k : Nat} (hk : k < 15) :
    (pc ++ list).getLsbD k = list.getLsbD k := by
  rw [BitVec.getLsbD_append, if_pos hk]

/-- LDM (3) loads no base that it writes; the pc, which it loads, is no base (R398). -/
theorem baseApart_ldm3 {c : Cond} {p u w : Bool} {rn : Reg} {list : BitVec 15} {base : Word}
    (hwf : (Instr.ldm3 c p u w rn list).wf = true) :
    (block p u w rn base (1#1 ++ list)).baseApart (listRegs (1#1 ++ list)) := by
  intro r v hw
  obtain ⟨rfl, rfl⟩ := block_writeBack hw
  simp only [Instr.wf, notPc, inList, Bool.and_eq_true, bne_iff_ne, Bool.true_and, Bool.not_eq_true'] at hwf
  obtain ⟨h15, hlist⟩ := hwf
  have hne : r.toNat ≠ 15 := fun e => h15 (BitVec.eq_of_toNat_eq e)
  have hlt : r.toNat < 15 := by omega
  rw [getLsbD_listBelow _ _ hlt] at hlist
  exact ⟨h15, not_mem_listRegs ((getLsbD_listBelow _ _ hlt).trans hlist)⟩

variable {status : Word} (hstatus : s.spsr? = some status)
include hstatus

/-- LDM (2) where nothing keeps it from running (R395). -/
theorem loadUser_gives (hs : s.armReady) (h15 : list.getLsbD 15 = false) (hlen : vs.length = (listRegs list).length)
    (hok : s.blockOk m.start vs.length) (hadmit : s.admits .read m.start vs.length) (hholds : s.holdsWords m.start vs) :
    gives (loadUser s m list) fun t =>
      (∀ (k : Nat) r v, (listRegs list)[k]? = some r → vs[k]? = some v → t.xUsr r = v) ∧ t.pc = s.pc + 4 ∧
      SameBut ((listRegs list).map (physReg (some .usr))) 0 noBytes s t := by
  have hrun : loadUser s m list = advance (s.setXsUsr ((listRegs list).zip vs)) := by
    rw [loadUser, hstatus]
    exact loadBlock_of_holdsWords hlen hok hadmit hholds
  refine ⟨_, hrun.trans (advance_of_armReady hs (by simp) (by simp)), fun k r v hr hv => ?_, rfl, ?_⟩
  · have hne : r ≠ 15 := ne_fifteen_of_mem_listRegs h15 (List.mem_of_getElem? hr)
    rw [← State.xUsr_setXsUsr_zip (s := s) (nodup_listRegs list) hr hv hne, State.xUsr_eq _ hne, State.xUsr_eq _ hne]
    exact State.x_setPc (State.asUser _) _ hne
  · exact (SameBut.refl.setXsUsr fun w hw => List.mem_map_of_mem (List.of_mem_zip hw).1).setPc _

/-- LDM (3) where nothing keeps it from running (R398). -/
theorem loadReturn_gives (hbase : m.baseApart (listRegs list)) (hlen : vs.length = (listRegs list).length)
    (hok : s.blockOk m.start vs.length) (hadmit : s.admits .read m.start vs.length) (hholds : s.holdsWords m.start vs)
    (hlegal : (Mode.ofBits? (Psr.m status)).isSome = true) :
    gives (loadReturn s m list) fun t =>
      (∀ (k : Nat) r v q, (listRegs list)[k]? = some r → vs[k]? = some v → s.phys r = some q → t.reg q = v) ∧
      (∀ b v q, m.writeBack = some (b, v) → s.phys b = some q → t.reg q = v) ∧ t.cpsr = status ∧
      (∀ v, vs.getLast? = some v → t.pc = v &&& (if status.getLsbD 5 then 0xFFFFFFFE else 0xFFFFFFFC)) ∧
      SameBut ((listRegs list).map s.phys ++ s.basePhys m) 0xFFFFFFFF noBytes s t := by
  let u := s.loaded m (listRegs list) vs
  have hrun : loadReturn s m list = exceptionReturn u (vs.getLastD 0) := by
    rw [loadReturn, hstatus]
    exact loadBlock_of_holdsWords hlen hok hadmit hholds
  have hreg : ∀ r q, s.phys r = some q → u.reg q = u.x r := fun r q hq =>
    (State.x_of_physReg (s := u) (by rw [State.loaded_mode]; exact hq)).symm
  refine ⟨_, hrun.trans (exceptionReturn_of_legal (by simpa [u] using hstatus) hlegal _), fun k r v q hr hv hq => ?_,
    fun b v q hw hq => ?_, rfl, fun v hv => ?_, ?_⟩
  · have hne : r ≠ 15 := by
      rintro rfl
      cases (physReg_fifteen s.mode).symm.trans hq
    exact (hreg r q hq).trans (State.x_loaded (nodup_listRegs list) hbase hr hne hv)
  · exact (hreg b q hq).trans (State.x_loaded_base hbase hw)
  · rw [List.getLastD_eq_getLast?, hv, Option.getD_some]
  · have hall : status &&& ~~~0xFFFFFFFF = s.cpsr &&& ~~~0xFFFFFFFF := by simp
    exact (SameBut.loaded.setCpsr hall).setPc _

/-- STM (2) where nothing keeps it from running (R397). -/
theorem storeUser_gives (hs : s.armReady) (hbase : m.writeBack = none) (hok : s.blockOk m.start (listRegs list).length)
    (hadmit : s.admits .write m.start (listRegs list).length) :
    gives (storeUser s m list) fun t =>
      (∀ (k : Nat) r, (listRegs list)[k]? = some r → t.holds (alignWord m.start + BitVec.ofNat 32 (4 * k)) 4
        (if r = 15 then s.pc + s.settings.storePc.value else s.xUsr r).toNat) ∧
      t.pc = s.pc + 4 ∧ SameBut [] 0 (bytesAt (alignWord m.start) (4 * (listRegs list).length)) s t := by
  let words := (listRegs list).map fun r => if r = 15 then s.pc + s.settings.storePc.value else s.xUsr r
  have hlen : words.length = (listRegs list).length := List.length_map _
  have hrun : storeUser s m list = storeBlock s m words := by
    rw [storeUser, hstatus]
    rfl
  obtain ⟨t, ht, hheld, -, hpc, hframe⟩ := storeBlock_gives (s := s) (m := m) (vs := words) hs.2 (by simp [hbase])
    (hlen ▸ hok) (hlen ▸ hadmit)
  refine ⟨t, hrun.trans ht, fun k r hr => hheld k _ ?_, hpc.trans (State.nextPc_arm hs.1), ?_⟩
  · rw [List.getElem?_map, hr]
    rfl
  · rwa [State.basePhys, hbase, hlen] at hframe

end

/-- Settles O50: each needs an SPSR; with one, LDM (2) and STM (2) move registers of the User bank, and LDM (3) those of the
bank that the return leaves. -/
theorem userBankTransfersAndReturns : Obligations.UserBankTransfersAndReturns := by
  intro s c p u w rn list full vs hc hs
  refine ⟨fun hnone => ⟨fun hwf => ?_, fun hwf => ?_, fun hwf => ?_⟩, fun status hstatus => ⟨?_, ?_, ?_⟩⟩
  · exact (onCondition_of_holds hwf hc _).trans (loadUser_of_noSpsr hnone)
  · exact (onCondition_of_holds hwf hc _).trans (loadReturn_of_noSpsr hnone)
  · exact (onCondition_of_holds hwf hc _).trans (storeUser_of_noSpsr hnone)
  · intro m regs hwf hlen hok hadmit hholds
    have hrun : exec (.ldm2 c p u false rn list) s = loadUser s m (0#1 ++ list) := onCondition_of_holds hwf hc _
    rw [hrun]
    exact loadUser_gives hstatus hs (getLsbD_zero_append list) hlen hok hadmit hholds
  · intro m regs hwf hlen hok hadmit hholds hlegal
    have hrun : exec (.ldm3 c p u w rn list) s = loadReturn s m (1#1 ++ list) := onCondition_of_holds hwf hc _
    rw [hrun]
    exact loadReturn_gives hstatus (baseApart_ldm3 hwf) hlen hok hadmit hholds hlegal
  · intro m regs hwf hok hadmit
    have hrun : exec (.stm2 c p u false rn full) s = storeUser s m full := onCondition_of_holds hwf hc _
    rw [hrun]
    exact storeUser_gives hstatus hs rfl hok hadmit

/-! ## LDC and STC -/

section
variable {s : State} {i : Instr} {c : Cond} {cp : CpNum} {op : CpOp} {m : Address} {store : Bool} {vs : List Word}
  {lessOne : BitVec 4}

/-- A base that a coprocessor transfer writes is not the pc (R444). -/
theorem CpTransfers.base_ne (h : CpTransfers s i c cp op m store) (hwf : i.wf = true) {r : Reg} {v : Word}
    (hw : m.writeBack = some (r, v)) : r ≠ 15 := by
  cases h with
  | ldc _ p u n w rn | ldc2 p u n w rn | stc _ p u n w rn | stc2 p u n w rn =>
    cases w with
    | false => cases hw
    | true =>
      simp only [Instr.wf, cpTransferOk, notPc, Bool.and_eq_true, Bool.not_true, Bool.false_or, bne_iff_ne] at hwf
      obtain rfl : rn = r := congrArg Prod.fst (Option.some.inj hw)
      exact hwf.2

/-- An accepted LDC that nothing keeps from running. -/
theorem loadCp_gives (hs : s.armReady) (hbase : ∀ rn v, m.writeBack = some (rn, v) → rn ≠ 15)
    (haccept : s.accepts? cp op [] = some lessOne) (hlen : vs.length = wordCount lessOne)
    (hok : s.blockOk m.start vs.length) (hadmit : s.admits .read m.start vs.length) (hholds : s.holdsWords m.start vs) :
    gives (loadCp s cp op m) fun t =>
      t.cpPast = .took cp op vs :: s.cpPast ∧ BaseWritten m t ∧ t.pc = s.pc + 4 ∧
      SameBut (s.basePhys m) 0 noBytes s { t with cpPast := s.cpPast } := by
  have hrun : loadCp s cp op m = advance ((s.cpTake cp op vs).writeBack m.writeBack) :=
    (offer_of_accepts haccept).trans (loadBlock_of_holdsWords hlen hok hadmit hholds)
  have hframe : SameBut (s.basePhys m) 0 noBytes (s.cpTake cp op vs) ((s.cpTake cp op vs).writeBack m.writeBack) :=
    SameBut.refl.writeBack fun rn v hw => State.mem_basePhys hw
  obtain ⟨hregs, hpsr, hspsrs, hbytes, -, hout⟩ := hframe
  refine ⟨_, hrun.trans (advance_of_armReady hs (by simp) (by simp)), by simp, fun rn v hw => ?_, rfl,
    hregs, hpsr, hspsrs, hbytes, rfl, hout⟩
  rw [State.x_setPc _ _ (hbase rn v hw), State.x_writeBack hw (hbase rn v hw)]

/-- The words that a coprocessor gives are the only ones that are what it gives. -/
theorem cpWords_eq (hlen : vs.length = wordCount lessOne) (h : ∀ k, k < vs.length → vs[k]? = some (s.cpWord cp op k)) :
    (List.range (wordCount lessOne)).map (s.cpWord cp op) = vs := by
  refine List.ext_getElem? fun k => ?_
  rw [List.getElem?_map, ← hlen]
  by_cases hk : k < vs.length
  · rw [List.getElem?_range hk, h k hk]
    rfl
  · rw [List.getElem?_eq_none (by simpa using hk), List.getElem?_eq_none (by simpa using hk)]
    rfl

end

/-- Settles O54: the words that memory holds are handed over, those that the coprocessor gives are stored. -/
theorem coprocessorTransfersMoveWords : Obligations.CoprocessorTransfersMoveWords := by
  intro s i c cp op m store lessOne vs h hwf hc hs haccept hlen hok
  have hbase : ∀ rn v, m.writeBack = some (rn, v) → rn ≠ 15 := fun _ _ hw => h.base_ne hwf hw
  rw [h.exec_eq hwf hc]
  refine ⟨fun hload hadmit hholds => ?_, fun hstore hadmit hvs => ?_⟩
  · subst hload
    exact loadCp_gives hs hbase haccept hlen hok hadmit hholds
  · subst hstore
    have hrun : storeCp s cp op m = storeBlock s m vs :=
      (offer_of_accepts haccept).trans (congrArg (storeBlock s m) (cpWords_eq hlen hvs))
    rw [if_pos rfl, hrun, ← State.nextPc_arm hs.1]
    exact storeBlock_gives hs.2 hbase hok hadmit

end Sys2Proof.Machine

/-! SUPPORT AND PROOFS of the Thumb statements. First the layer: the end of an instruction that writes a low register or none,
with flags or without. Then, for each family, the operation that its instructions run (`exec_eq`, `exec_of_…`). -/

namespace Sys2Proof.Machine

/-! ## Registers and flags -/

section
variable {s : State}

/-- The end of an instruction that writes one register and nothing else, in either instruction set. -/
theorem setX_gives_nextPc (hs : s.hasRoom) {rd : Reg} (hrd : rd ≠ 15) (v : Word) :
    gives (advance (s.setX rd v)) fun t => t.x rd = v ∧ t.pc = s.nextPc ∧ SameBut [s.phys rd] 0 noBytes s t := by
  refine ⟨_, advance_of_hasRoom hs (by simp) (by simp), ?_, rfl, (SameBut.refl.setX rd v (by simp)).setPc _⟩
  rw [State.x_setPc _ _ hrd, State.x_setX_same _ v hrd]

/-- What a Thumb instruction writes to its destination, if it has one. -/
def destWrite (dest : Option LowReg) (v : Word) : Option (Reg × Word) := dest.map fun rd => (lowReg rd, v)

/-- The end of a Thumb instruction that sets flags: the result in the destination, if there is one, and N, Z, C and V. -/
theorem thumbFlags_gives (hs : s.thumbReady) (dest : Option LowReg) (v : Word) (n z c f : Bool) :
    gives (advance ((s.writeBack (destWrite dest v)).setCpsr (Psr.withNZCV s.cpsr n z c f))) fun t =>
      (∀ rd, dest = some rd → t.x (lowReg rd) = v) ∧ t.cpsr = Psr.withNZCV s.cpsr n z c f ∧ t.pc = s.pc + 2 ∧
      SameBut (dest.map fun rd => s.phys (lowReg rd)).toList nzcvBits noBytes s t := by
  have hthumb : ((s.writeBack (destWrite dest v)).setCpsr (Psr.withNZCV s.cpsr n z c f)).thumb = s.thumb :=
    Psr.t_withNZCV _ _ _ _ _
  refine ⟨_, advance_of_hasRoom hs.2 (by simp) hthumb, fun rd hdest => ?_, rfl, State.nextPc_thumb hs.1, ?_⟩
  · have hrd := lowReg_ne_fifteen rd
    rw [State.x_setPc _ _ hrd, State.x_setCpsr hrd (by simp), State.x_writeBack (by rw [destWrite, hdest]; rfl) hrd]
  · have hwritten : SameBut (dest.map fun rd => s.phys (lowReg rd)).toList nzcvBits noBytes s
        (s.writeBack (destWrite dest v)) := by
      refine SameBut.refl.writeBack fun rn b hw => ?_
      obtain ⟨rd, rfl, hrd⟩ := Option.map_eq_some_iff.mp hw
      obtain rfl : lowReg rd = rn := congrArg Prod.fst hrd
      simp
    exact (hwritten.setCpsr (Psr.withNZCV_outside _ _ _ _ _)).setPc _

end

/-! ## Arithmetic, shifts and compares -/

section
variable {s : State} {i : Instr} {dest : Option LowReg} {k : Calc}

/-- Each instruction that calculates computes its calculation, and writes the result and the four flags of it. -/
theorem ThumbCalc.exec_eq (h : ThumbCalc s i dest k) (hwf : i.wf = true) :
    ∃ o : Alu, o.Computes k (Psr.v s.cpsr) ∧
      exec i s = advance ((s.writeBack (destWrite dest o.result)).setCpsr (o.flags s.cpsr)) := by
  cases h with
  | tAdd3 | tAdd1 | tAdd2 | tAdc | tCmn => exact ⟨_, aluSum_computes _ _ _ _, always_of_wf hwf _⟩
  | tSub3 | tSub1 | tSub2 | tNeg | tCmp1 | tCmp2 | tCmp3 => exact ⟨_, aluDiff_computes _ _ true _, always_of_wf hwf _⟩
  | tSbc => exact ⟨_, aluDiff_computes _ _ _ _, always_of_wf hwf _⟩
  | tLsl1 | tLsr1 | tAsr1 | tLsl2 | tLsr2 | tAsr2 | tRor => exact ⟨_, aluLogical_computes _ _ _, always_of_wf hwf _⟩

end

/-- Settles O55: each ends with its result and the four flags of its calculation. -/
theorem thumbArithmeticSetsFlags : Obligations.ThumbArithmeticSetsFlags := by
  intro s i dest k h hwf hs
  obtain ⟨o, ho, hexec⟩ := h.exec_eq hwf
  obtain ⟨t, ht, hx, hcpsr, hpc, hframe⟩ := thumbFlags_gives hs dest o.result _ _ _ _
  exact ⟨t, hexec.trans ht, ho.result ▸ hx, ho.flagsIn hcpsr, hpc, hframe⟩

/-! ## Logic, MOV (1), MUL and TST -/

/-- Each logical instruction writes its result, and N and Z of it. -/
theorem ThumbLogic.exec_eq {s : State} {i : Instr} {dest : Option LowReg} {r : Word} (h : ThumbLogic s i dest r)
    (hwf : i.wf = true) : exec i s = advance ((s.writeBack (destWrite dest r)).setCpsr (nzFlags r s.cpsr)) := by
  cases h with
  | tMov1 | tAnd | tEor | tOrr | tBic | tMvn | tTst => exact always_of_wf hwf _
  | tMul =>
    rw [BitVec.ofNat_mul, BitVec.ofNat_toNat, BitVec.ofNat_toNat, BitVec.setWidth_eq, BitVec.setWidth_eq]
    exact always_of_wf hwf _

/-- Settles O56: each ends with its result and N and Z of it. For MUL with Rd = Rm this rests on log entry 31. -/
theorem thumbLogicKeepsCarryAndOverflow : Obligations.ThumbLogicKeepsCarryAndOverflow := by
  intro s i dest r h hwf hs
  obtain ⟨t, ht, hx, hcpsr, hpc, hframe⟩ := thumbFlags_gives hs dest r _ _ _ _
  exact ⟨t, (h.exec_eq hwf).trans ht, hx, nzIn_of_cpsr_eq r hcpsr, hpc, hframe⟩

/-! ## Writes without flags -/

section
variable {s : State} {i : Instr} {rd : Reg} {v : Word}

theorem writeHigh_of_ne (h : rd ≠ 15) : writeHigh s rd v = advance (s.setX rd v) := if_neg h

theorem State.pcRead_thumb (hs : s.thumb = true) : s.pcRead = s.pc + 4 := by
  rw [State.pcRead, hs]
  rfl

/-- Each is a write of a register of any number; only the high-register forms can name the pc. -/
theorem ThumbWrites.exec_eq (h : ThumbWrites s i rd v) (hwf : i.wf = true) (hs : s.thumb = true) :
    exec i s = writeHigh s rd v := by
  cases h with
  | tAdd4 | tMov3 => exact always_of_wf hwf _
  | tAdd5 rd imm8 =>
    rw [writeHigh_of_ne (lowReg_ne_fifteen rd), ← wordsOffset_eq, ← State.pcRead_thumb hs]
    exact always_of_wf hwf _
  | tAdd6 rd imm8 =>
    rw [writeHigh_of_ne (lowReg_ne_fifteen rd), ← wordsOffset_eq]
    exact always_of_wf hwf _
  | tAdd7 | tSub4 =>
    rw [writeHigh_of_ne (by decide), ← wordsOffset_eq]
    exact always_of_wf hwf _

end

/-- Settles O57: each is a write of its register, or a branch where that is the pc. -/
theorem thumbWritesWithoutFlags : Obligations.ThumbWritesWithoutFlags := by
  intro s i rd v h hwf hs
  rw [h.exec_eq hwf hs.1]
  refine ⟨fun hrd => ?_, fun hrd => if_pos hrd⟩
  rw [writeHigh_of_ne hrd, ← State.nextPc_thumb hs.1]
  exact setX_gives_nextPc hs.2 hrd v

/-! ## Loads -/

section
variable {s : State} {i : Instr} {a : Word} {rd : LowReg} {n v : Nat} {signed : Bool}

theorem ThumbLoads.word_unsigned (h : ThumbLoads s i a rd 4 signed) : signed = false := by
  cases h <;> rfl

/-- Each load at an aligned address that nothing keeps from running writes what its bytes become. -/
theorem ThumbLoads.exec_of_holds (h : ThumbLoads s i a rd n signed) (hs : s.thumb = true) (hal : a.toNat % n = 0)
    (hadmit : s.settings.aborts .read s.privileged n a = false) (hholds : s.holds a n v) :
    exec i s = advance (s.setX (lowReg rd) (narrowValue n signed v)) := by
  obtain rfl | rfl | rfl := h.width
  · rw [h.exec_byte]
    cases signed with
    | false => exact loadByte_of_holds (m := ⟨a, none⟩) hadmit hholds
    | true => exact loadSignedByte_of_holds (m := ⟨a, none⟩) hadmit hholds
  · have hvalue : (if signed then BitVec.signExtend 32 else BitVec.setWidth 32) (BitVec.ofNat 16 v) =
        narrowValue 2 signed v := by
      cases signed with
      | false => exact setWidth_eq_narrowValue (n := 2) hholds.1
      | true => exact signExtend_eq_narrowValue (n := 2) hholds.1
    rw [h.exec_half, thumbLoadHalf_eq, if_pos hal, loadHalf_of_holds (m := ⟨a, none⟩) hal hadmit hholds, hvalue]
    rfl
  · obtain rfl := h.word_unsigned
    have h0 : lowTwo a = 0 := (lowTwo_eq_zero a).mpr hal
    have haligned : alignWord a = a := alignWord_of_lowTwo h0
    have hread : s.readWord s.privileged (alignWord a) = .value (BitVec.ofNat 32 v) := by
      rw [haligned]
      exact State.readWord_of_holds hadmit hholds
    have hvalue : ror (BitVec.ofNat 32 v) (8 * (lowTwo a).toNat) = narrowValue 4 false v := by
      rw [h0, ← setWidth_eq_narrowValue hholds.1, BitVec.setWidth_eq]
      exact ror_zero _
    rw [h.exec_word (.inl hs), thumbLoadWord_eq, if_pos hal, loadWord_of_aligned (.inl hal), hread, ← hvalue]
    exact if_neg (lowReg_ne_fifteen rd)

/-- A misaligned load that the alignment check lets by writes a free value (log entry 11). -/
theorem ThumbLoads.exec_misaligned (h : ThumbLoads s i a rd n signed) (hal : s.settings.alignFault = false)
    (h0 : a.toNat % n ≠ 0) (hfit : a.toNat + n ≤ 2 ^ 32)
    (hadmit : s.settings.aborts .read s.privileged n (a - BitVec.ofNat 32 (a.toNat % n)) = false) :
    exec i s = advance ((s.setX (lowReg rd) s.free).useFree 1) := by
  obtain rfl | rfl | rfl := h.width
  · exact absurd (Nat.mod_one _) h0
  · rw [h.exec_half, thumbLoadHalf_eq, if_neg h0, thumbUnaligned_unchecked hal hfit, ← sub_mod_two]
    exact if_neg (Bool.eq_false_iff.mp hadmit)
  · rw [h.exec_word (.inr h0), thumbLoadWord_eq, if_neg h0, thumbUnaligned_unchecked hal hfit, ← sub_mod_four]
    exact if_neg (Bool.eq_false_iff.mp hadmit)

end

/-- Settles O58: a load that nothing keeps from running ends with what its bytes become in the register. -/
theorem thumbLoadsExtend : Obligations.ThumbLoadsExtend := by
  intro s i a rd n signed v h hs hal hadmit hholds
  rw [h.exec_of_holds hs.1 hal hadmit hholds, ← State.nextPc_thumb hs.1]
  exact setX_gives_nextPc hs.2 (lowReg_ne_fifteen rd) (narrowValue n signed v)

/-! ## Stores -/

section
variable {s : State} {i : Instr} {a : Word} {rd : LowReg} {n : Nat}

/-- Each store at an aligned address that nothing keeps from running writes the lowest bytes of its register. -/
theorem ThumbStores.exec_of_admits (h : ThumbStores s i a rd n) (hal : a.toNat % n = 0)
    (hadmit : s.settings.aborts .write s.privileged n a = false) :
    exec i s = advance (s.storeBytes a (lowBytes s.settings.bigend n (s.x (lowReg rd)))) := by
  obtain rfl | rfl | rfl := h.width
  · exact h.exec_byte.trans (storeByte_of_admits (m := ⟨a, none⟩) hadmit)
  · rw [h.exec_half, thumbStoreHalf_eq, if_pos hal]
    exact storeHalf_of_admits (m := ⟨a, none⟩) hal hadmit
  · have haligned : alignWord a = a := alignWord_of_lowTwo ((lowTwo_eq_zero a).mpr hal)
    rw [h.exec_word, thumbStoreWord_eq, if_pos hal, storeWord_of_admits (.inl hal) (by rwa [haligned]), haligned]
    rfl

/-- A misaligned store that the alignment check lets by writes free values from the aligned address to the last byte that it
would have at its own (log entry 11). -/
theorem ThumbStores.exec_misaligned (h : ThumbStores s i a rd n) (hal : s.settings.alignFault = false)
    (h0 : a.toNat % n ≠ 0) (hfit : a.toNat + n ≤ 2 ^ 32)
    (hadmit : s.settings.aborts .write s.privileged n (a - BitVec.ofNat 32 (a.toNat % n)) = false) :
    exec i s = advance ((s.useFree 2).storeBytes (a - BitVec.ofNat 32 (a.toNat % n))
      (s.freeBytes.take (n + a.toNat % n))) := by
  have hback : (a - (a - BitVec.ofNat 32 (a.toNat % n))).toNat = a.toNat % n := by
    have hle : a.toNat % n ≤ a.toNat := Nat.mod_le _ _
    generalize a.toNat % n = d at hle
    bv_omega
  have hrun : storeFree s n (a - BitVec.ofNat 32 (a.toNat % n)) a = advance ((s.useFree 2).storeBytes
      (a - BitVec.ofNat 32 (a.toNat % n)) (s.freeBytes.take (n + a.toNat % n))) := by
    rw [storeFree, if_neg (Bool.eq_false_iff.mp hadmit), hback]
  obtain rfl | rfl | rfl := h.width
  · exact absurd (Nat.mod_one _) h0
  · rw [h.exec_half, thumbStoreHalf_eq, if_neg h0, thumbUnaligned_unchecked hal hfit, ← sub_mod_two, hrun]
  · rw [h.exec_word, thumbStoreWord_eq, if_neg h0, thumbUnaligned_unchecked hal hfit, ← sub_mod_four, hrun]

end

/-- Settles O59: a store that nothing keeps from running ends with its bytes; it writes no base. -/
theorem thumbStoresWriteTheirBytesAlone : Obligations.ThumbStoresWriteTheirBytesAlone := by
  intro s i a rd n h hs hal hadmit
  have hn : n ≤ 2 ^ 32 := by
    obtain rfl | rfl | rfl := h.width <;> decide
  obtain ⟨t, ht, hheld, -, hpc, hframe⟩ := store_gives (m := ⟨a, none⟩) (v := s.x (lowReg rd)) hs.2 (by simp) a hn
  exact ⟨t, (h.exec_of_admits hal hadmit).trans ht, hheld, hpc.trans (State.nextPc_thumb hs.1), hframe⟩

/-- Settles O60: the free values are the model's choice, log entry 11; the frames are those of the register and of the bytes. -/
theorem misalignedThumbTransfersRun : Obligations.MisalignedThumbTransfersRun := by
  intro s i a rd n hs hal h0 hfit aligned
  refine ⟨fun signed h hadmit => ?_, fun h hadmit => ?_⟩
  · have hloaded : SameBut [s.phys (lowReg rd)] 0 noBytes s ((s.setX (lowReg rd) s.free).useFree 1) :=
      SameBut.refl.setX (lowReg rd) s.free (List.mem_singleton_self _)
    exact ⟨_, (h.exec_misaligned hal h0 hfit hadmit).trans (advance_of_hasRoom hs.2 (by simp) (by simp)),
      State.nextPc_thumb hs.1, hloaded.setPc _⟩
  · have hstored : SameBut [] 0 (bytesAt aligned (n + a.toNat % n)) s
        ((s.useFree 2).storeBytes aligned (s.freeBytes.take (n + a.toNat % n))) := by
      refine SameBut.storeBytes (u := s.useFree 2) SameBut.refl _ _ fun b ⟨k, hk, hb⟩ => ⟨k, ?_, hb⟩
      exact hk.trans_le (List.length_take_le _ _)
    exact ⟨_, (h.exec_misaligned hal h0 hfit hadmit).trans (advance_of_hasRoom hs.2 (by simp) (by simp)),
      State.nextPc_thumb hs.1, hstored.setPc _⟩

end Sys2Proof.Machine

/-! SUPPORT AND PROOFS of the encoding statements. A word is read through its fields, each a run of bits; an encoding is a
concatenation of fields, so a word is an encoding if and only if each of its fields reads what the layout says (R101, R461). -/

namespace Sys2Proof

open Sys2Proof.Machine (isThumb)

/-! ## Coded fields -/

theorem Cond.ofBits?_bits (c : Cond) : Cond.ofBits? c.bits = some c := by cases c <;> rfl

theorem Cond.ofBits?_eq_some {b : BitVec 4} {c : Cond} : Cond.ofBits? b = some c ↔ b = c.bits := by
  cases c <;> revert b <;> decide

theorem Cond.ofBits?_eq_none {b : BitVec 4} : Cond.ofBits? b = none ↔ b = 15#4 := by
  revert b
  decide

theorem Shift.ofBits_bits (sh : Shift) : Shift.ofBits sh.bits = sh := by cases sh <;> rfl

theorem Shift.bits_ofBits (b : BitVec 2) : (Shift.ofBits b).bits = b := by
  revert b
  decide

/-! ## Fields of a word -/

/-- The field of `w` that begins at bit `s` and is as wide as `x` reads `x`. -/
def FieldAt {k n : Nat} (w : BitVec k) (s : Nat) (x : BitVec n) : Prop := w.extractLsb' s n = x

section
variable {k m n s v : Nat} {w : BitVec k}

theorem fieldAt_iff_getLsbD {x : BitVec n} : FieldAt w s x ↔ ∀ i < n, w.getLsbD (s + i) = x.getLsbD i := by
  rw [FieldAt, BitVec.eq_of_getLsbD_eq_iff]
  refine forall₂_congr fun i hi => ?_
  rw [BitVec.getLsbD_extractLsb', decide_eq_true hi, Bool.true_and]

theorem fieldAt_nil {x : BitVec 0} : FieldAt w s x := BitVec.eq_of_zero_length rfl

theorem fieldAt_extract : FieldAt w s (w.extractLsb' s n) := rfl

/-- A concatenation is read part by part. The widths are computed when the lemma is applied to an encoding, whose width is
written 32 or 16, and so are not part of the pattern. -/
theorem fieldAt_append {x : BitVec m} {y : BitVec n} :
    @FieldAt k (no_index (m + n)) w s (x ++ y) ↔ FieldAt w (s + n) x ∧ FieldAt w s y := by
  change FieldAt w s (x ++ y) ↔ _
  simp only [fieldAt_iff_getLsbD, BitVec.getLsbD_append]
  constructor
  · intro h
    refine ⟨fun i hi => ?_, fun i hi => ?_⟩
    · simpa [Nat.add_assoc] using h (n + i) (by omega)
    · simpa [hi] using h i (by omega)
  · rintro ⟨hx, hy⟩ i hi
    split
    next h => exact hy i h
    next h =>
      have hbit := hx (i - n) (by omega)
      rwa [show s + n + (i - n) = s + i by omega] at hbit

theorem fieldAt_ofBool {b : Bool} : FieldAt w s (BitVec.ofBool b) ↔ w.getLsbD s = b := by
  simp [fieldAt_iff_getLsbD]

theorem extract_succ : w.extractLsb' s (n + 1) = w.extractLsb' (s + 1) n ++ BitVec.ofBool (w.getLsbD s) :=
  fieldAt_append.mpr ⟨fieldAt_extract, fieldAt_ofBool.mpr rfl⟩

/-- A literal is read bit by bit. -/
theorem fieldAt_literal : FieldAt w s (BitVec.ofNat (n + 1) v) ↔
    w.getLsbD s = decide (v % 2 = 1) ∧ FieldAt w (s + 1) (BitVec.ofNat n (v / 2)) := by
  have hsplit : BitVec.ofNat (n + 1) v = BitVec.ofNat n (v / 2) ++ BitVec.ofBool (decide (v % 2 = 1)) := by
    refine BitVec.eq_of_getLsbD_eq fun i hi => ?_
    rw [BitVec.getLsbD_append, BitVec.getLsbD_ofNat, BitVec.getLsbD_ofNat, decide_eq_true hi, Bool.true_and]
    cases i with
    | zero => simp [Nat.testBit_zero]
    | succ i => simp [Nat.testBit_succ, Nat.lt_of_succ_lt_succ hi]
  rw [hsplit, and_comm, ← fieldAt_ofBool]
  exact fieldAt_append

/-- Comparing a field with a literal compares bit by bit. -/
theorem extract_beq_literal : (w.extractLsb' s (n + 1) == BitVec.ofNat (n + 1) v) =
    ((w.getLsbD s == decide (v % 2 = 1)) && (w.extractLsb' (s + 1) n == BitVec.ofNat n (v / 2))) := by
  rw [Bool.eq_iff_iff, Bool.and_eq_true, beq_iff_eq, beq_iff_eq, beq_iff_eq]
  exact fieldAt_literal

theorem extract_beq_nil {x : BitVec 0} : (w.extractLsb' s 0 == x) = true := beq_iff_eq.mpr fieldAt_nil

/-- The number in a field, from its lowest bit and the rest. -/
theorem toNat_extract_succ :
    (w.extractLsb' s (n + 1)).toNat = (w.getLsbD s).toNat + 2 * (w.extractLsb' (s + 1) n).toNat := by
  rw [extract_succ, BitVec.toNat_append, BitVec.toNat_ofBool, ← Nat.shiftLeft_add_eq_or_of_lt (Bool.toNat_lt _)]
  omega

theorem toNat_extract_zero : (w.extractLsb' s 0).toNat = 0 := BitVec.toNat_of_zero_length rfl _

/-- A field holds a given number if its bits are the number's. -/
theorem toNat_extract_succ_eq_iff : (w.extractLsb' s (n + 1)).toNat = v ↔
    w.getLsbD s = decide (v % 2 = 1) ∧ (w.extractLsb' (s + 1) n).toNat = v / 2 := by
  rw [toNat_extract_succ]
  cases w.getLsbD s <;> simp <;> omega

theorem toNat_extract_zero_eq_iff : (w.extractLsb' s 0).toNat = v ↔ v = 0 := by
  rw [toNat_extract_zero, eq_comm]

end

/-- Settles O3: each word is written out, and the decoder computes on it. -/
theorem writtenWordsDecode : Obligations.WrittenWordsDecode := by
  unfold Obligations.WrittenWordsDecode
  decide

/-! ## Encoding after decoding

A row of the decoder gives an instruction whose fields are fields of the word; the literals of its layout are what the decoder
tested on the way to the row. Both are read bit by bit. -/

theorem arm_eq_of_fieldAt {v w : Word} (h : FieldAt w 0 v) : Encoding.arm v = .arm w := by
  rw [← h, BitVec.extractLsb'_eq_self]

theorem thumb_eq_of_fieldAt {v w : Half} (h : FieldAt w 0 v) : Encoding.thumb v = .thumb w := by
  rw [← h, BitVec.extractLsb'_eq_self]

section
variable {c : Cond} {w : Word}

/-- The last row, MSR, is what the rows before it leave: bit 21 set and bit 4 clear, whatever bits 22, 5 and 6 are. -/
theorem encode_decodeMisc (hc : FieldAt w 28 c.bits) (hg : FieldAt w 23 2#5) (h20 : w.getLsbD 20 = false)
    (h7 : w.getLsbD 7 = false) : encode (decodeMisc c w) = .arm w := by
  unfold decodeMisc
  split
  case' h_13 => cases h22 : w.getLsbD 22 <;> cases h5 : w.getLsbD 5
  all_goals
    refine arm_eq_of_fieldAt ?_
    simp only [↓fieldAt_append, fieldAt_ofBool, fieldAt_literal, fieldAt_nil, fieldAt_extract, toNat_extract_succ_eq_iff,
      toNat_extract_zero_eq_iff] at *
    grind

theorem encode_decodeGroup0 (hc : FieldAt w 28 c.bits) (hg : FieldAt w 25 0#3) : encode (decodeGroup0 c w) = .arm w := by
  unfold decodeGroup0 decodeMultiply decodeExtra decodeDspMultiply decodeRegShift decodeImmShift
  repeat' split
  case isFalse.isTrue.isFalse h h7 =>
    obtain ⟨h23, h20⟩ := Bool.and_eq_true_iff.mp h
    refine encode_decodeMisc hc ?_ (Bool.not_eq_true' _ ▸ h20) (Bool.eq_false_of_not_eq_true h7)
    exact fieldAt_append.mpr ⟨hg, beq_iff_eq.mp h23⟩
  all_goals
    refine arm_eq_of_fieldAt ?_
    simp only [↓fieldAt_append, fieldAt_ofBool, fieldAt_literal, fieldAt_nil, fieldAt_extract, toNat_extract_succ_eq_iff,
      toNat_extract_zero_eq_iff, extract_beq_literal, extract_beq_nil, Shift.bits_ofBits, BitVec.ofNat_eq_ofNat] at *
    grind

theorem encode_decodeCond (hc : FieldAt w 28 c.bits) : encode (decodeCond c w) = .arm w := by
  unfold decodeCond decodeGroup1 decodeDpImm decodeGroup2 decodeGroup3 decodeGroup4 decodeGroup5 decodeGroup6 decodeGroup7
  split
  case h_1 hg => exact encode_decodeGroup0 hc (BitVec.eq_of_toNat_eq hg)
  all_goals
    repeat' split
    all_goals
      refine arm_eq_of_fieldAt ?_
      simp only [↓fieldAt_append, fieldAt_ofBool, fieldAt_literal, fieldAt_nil, fieldAt_extract, toNat_extract_succ_eq_iff,
        toNat_extract_zero_eq_iff, extract_beq_literal, extract_beq_nil, Shift.bits_ofBits, BitVec.ofNat_eq_ofNat] at *
      grind

theorem encode_decodeUncond (hu : FieldAt w 28 15#4) : encode (decodeUncond w) = .arm w := by
  unfold decodeUncond
  repeat' split
  all_goals
    refine arm_eq_of_fieldAt ?_
    simp only [↓fieldAt_append, fieldAt_ofBool, fieldAt_literal, fieldAt_nil, fieldAt_extract, toNat_extract_succ_eq_iff,
      toNat_extract_zero_eq_iff, extract_beq_literal, extract_beq_nil, Shift.bits_ofBits, BitVec.ofNat_eq_ofNat] at *
    grind

theorem decodeArm_of_cond (hc : FieldAt w 28 c.bits) : decodeArm w = decodeCond c w := by
  rw [decodeArm, Cond.ofBits?_eq_some.mpr hc]

theorem decodeArm_of_uncond (hu : FieldAt w 28 15#4) : decodeArm w = decodeUncond w := by
  rw [decodeArm, Cond.ofBits?_eq_none.mpr hu]

end

theorem encode_decodeArm (w : Word) : encode (decodeArm w) = .arm w := by
  cases h : Cond.ofBits? (w.extractLsb' 28 4) with
  | some c =>
    have hc : FieldAt w 28 c.bits := Cond.ofBits?_eq_some.mp h
    rw [decodeArm_of_cond hc, encode_decodeCond hc]
  | none =>
    have hu : FieldAt w 28 15#4 := Cond.ofBits?_eq_none.mp h
    rw [decodeArm_of_uncond hu, encode_decodeUncond hu]

/-- The halfwords 1101: the condition's field holds a condition other than AL, or 1110, or 1111. -/
theorem encode_decodeThumbBranch {h : Half} (hg : FieldAt h 12 13#4) : encode (decodeThumbBranch h) = .thumb h := by
  unfold decodeThumbBranch
  split
  case h_1 hc =>
    have hfield : FieldAt h 8 15#4 := Cond.ofBits?_eq_none.mp hc
    refine thumb_eq_of_fieldAt ?_
    simp only [↓fieldAt_append, fieldAt_literal, fieldAt_nil, fieldAt_extract] at *
    grind
  case h_2 hc =>
    have hfield : FieldAt h 8 14#4 := Cond.ofBits?_eq_some.mp hc
    refine thumb_eq_of_fieldAt ?_
    simp only [↓fieldAt_append, fieldAt_literal, fieldAt_nil, fieldAt_extract] at *
    grind
  case h_3 c _ hc =>
    have hfield : FieldAt h 8 c.bits := Cond.ofBits?_eq_some.mp hc
    exact thumb_eq_of_fieldAt (fieldAt_append.mpr ⟨fieldAt_append.mpr ⟨hg, hfield⟩, fieldAt_extract⟩)

theorem encode_decodeThumb (h : Half) : encode (decodeThumb h) = .thumb h := by
  unfold decodeThumb decodeThumbShift decodeThumbImm8 decodeThumbAlu decodeThumbHigh decodeThumbRegOffset decodeThumbMisc
  split
  case h_14 hg => exact encode_decodeThumbBranch (BitVec.eq_of_toNat_eq hg)
  all_goals
    repeat' split
    all_goals
      refine thumb_eq_of_fieldAt ?_
      simp only [↓fieldAt_append, fieldAt_ofBool, fieldAt_literal, fieldAt_nil, fieldAt_extract, toNat_extract_succ_eq_iff,
        toNat_extract_zero_eq_iff] at *
      grind

/-- Settles O2: every row of the decoder keeps every bit, a field where the row has a field, a tested bit elsewhere. -/
theorem encodingUndoesDecoding : Obligations.EncodingUndoesDecoding := by
  intro e
  cases e with
  | arm w => exact encode_decodeArm w
  | thumb h => exact encode_decodeThumb h

/-! ## Decoding after encoding

A word is the encoding of an instruction if it reads the layout's fields. The literals of the layout then lead the decoder to the
instruction's row, and the row gives the fields back. Where an earlier row could take the word instead, well-formedness rules it
out: the Undefined rows are what the other rows leave, and P = 0 with W = 1, or P = U = W = 0, is a row of its own. -/

theorem decode_arm_of_fieldAt {i : Instr} (v : Word) (h : ∀ w : Word, FieldAt w 0 v → decodeArm w = i) :
    decode (.arm v) = i :=
  h v BitVec.extractLsb'_eq_self

theorem decode_thumb_of_fieldAt {i : Instr} (v : Half) (h : ∀ w : Half, FieldAt w 0 v → decodeThumb w = i) :
    decode (.thumb v) = i :=
  h v BitVec.extractLsb'_eq_self

theorem Cond.ofBits?_of_toNat {b : BitVec 4} (h : b.toNat = 15) : Cond.ofBits? b = none :=
  Cond.ofBits?_eq_none.mpr (BitVec.eq_of_toNat_eq h)

/-- A word or byte transfer that is well formed is not a T form (R370). -/
theorem wordImmOk_iff {p w : Bool} {rn rd : Reg} :
    wordImmOk p w rn rd = true ↔ (!p && w) = false ∧ baseOk p w rn rd = true := by
  cases p <;> simp [wordImmOk]

/-! ### Rows that are what other rows leave -/

section
variable {c : Cond} {w : Word}

/-- Each row before the last takes only words that the check of the last row excludes (R432). -/
theorem decodeUncond_of_isUndefUncond (h : isUndefUncond (w.extractLsb' 0 28) = true) :
    decodeUncond w = .undefUncond (w.extractLsb' 0 28) := by
  unfold decodeUncond
  repeat' split
  case h_5.isFalse => rfl
  all_goals
    simp only [isUndefUncond, BitVec.getLsbD_extractLsb', toNat_extract_succ_eq_iff, toNat_extract_zero_eq_iff,
      extract_beq_literal, extract_beq_nil, BitVec.ofNat_eq_ofNat] at *
    grind

/-- The multiplies and swaps take only operations that the check excludes (R103, R433). -/
theorem decodeMultiply_of_isUndefArith (h : isUndefArith (w.extractLsb' 20 5) = true) :
    decodeMultiply c w = .undefArith c (w.extractLsb' 20 5) (w.extractLsb' 8 12) (w.extractLsb' 0 4) := by
  unfold decodeMultiply
  repeat' split
  case h_7.isTrue | h_8.isTrue | h_9 => rfl
  all_goals
    simp only [isUndefArith, bne, BitVec.getLsbD_extractLsb', toNat_extract_succ_eq_iff, toNat_extract_zero_eq_iff,
      extract_beq_literal, extract_beq_nil, BitVec.ofNat_eq_ofNat] at *
    grind

theorem decodeMisc_of_isUndefCompare (h : isUndefCompare (w.extractLsb' 21 2) (w.extractLsb' 0 20) = true) :
    decodeMisc c w = .undefCompare c (w.extractLsb' 21 2) (w.extractLsb' 0 20) := by
  unfold decodeMisc
  repeat' split
  case h_9 | h_10 => rfl
  all_goals
    simp only [isUndefCompare, BitVec.getLsbD_extractLsb', toNat_extract_succ_eq_iff, toNat_extract_zero_eq_iff,
      extract_beq_literal, extract_beq_nil, BitVec.ofNat_eq_ofNat] at *
    grind

theorem decodeThumbMisc_of_isUndefMisc {h : Half} (hop : isUndefMisc (h.extractLsb' 8 4) = true) :
    decodeThumbMisc h = .tUndefMisc (h.extractLsb' 8 4) (h.extractLsb' 0 8) := by
  unfold decodeThumbMisc
  repeat' split
  case h_7 => rfl
  all_goals
    simp only [isUndefMisc, bne, toNat_extract_succ_eq_iff, toNat_extract_zero_eq_iff,
      extract_beq_literal, extract_beq_nil, BitVec.ofNat_eq_ofNat] at *
    grind

/-- Bits [27:25] = 000 and [7:4] = 1001 are the multiplies' table (R103). -/
theorem decodeCond_multiply (hg : FieldAt w 25 0#3) (h9 : FieldAt w 4 9#4) : decodeCond c w = decodeMultiply c w := by
  simp only [fieldAt_literal, fieldAt_nil] at hg h9
  simp +ground only [decodeCond, decodeGroup0, toNat_extract_succ, toNat_extract_zero, extract_beq_literal, extract_beq_nil,
    BitVec.ofNat_eq_ofNat, hg, h9, ↓reduceIte]

/-- Bits [27:23] = 00010 with bits 20 and 7 clear are the miscellaneous table (R346). -/
theorem decodeCond_misc (hg : FieldAt w 23 2#5) (h20 : w.getLsbD 20 = false) (h7 : w.getLsbD 7 = false) :
    decodeCond c w = decodeMisc c w := by
  simp only [fieldAt_literal, fieldAt_nil] at hg
  simp +ground only [decodeCond, decodeGroup0, toNat_extract_succ, toNat_extract_zero, extract_beq_literal, extract_beq_nil,
    BitVec.ofNat_eq_ofNat, hg, h20, h7, Bool.false_and, ↓reduceIte]

theorem getLsbD_seven_of_isUndefCompare {op : BitVec 2} (h : isUndefCompare op (w.extractLsb' 0 20) = true) :
    w.getLsbD 7 = false := by
  simp only [isUndefCompare, BitVec.getLsbD_extractLsb', extract_beq_literal, extract_beq_nil, BitVec.ofNat_eq_ofNat] at h
  grind

end

section
variable {c : Cond}

theorem decode_encode_undefUncond {low : BitVec 28} (hwf : (Instr.undefUncond low).wf = true) :
    decode (encode (.undefUncond low)) = .undefUncond low := by
  refine decode_arm_of_fieldAt _ fun w h => ?_
  obtain ⟨hu, rfl⟩ := fieldAt_append.mp h
  rw [decodeArm_of_uncond hu, decodeUncond_of_isUndefUncond hwf]

theorem decode_encode_undefArith {op : BitVec 5} {mid : BitVec 12} {low : BitVec 4}
    (hwf : (Instr.undefArith c op mid low).wf = true) :
    decode (encode (.undefArith c op mid low)) = .undefArith c op mid low := by
  refine decode_arm_of_fieldAt _ fun w h => ?_
  simp only [fieldAt_append] at h
  obtain ⟨⟨⟨⟨⟨hc, hg⟩, rfl⟩, rfl⟩, h9⟩, rfl⟩ := h
  rw [decodeArm_of_cond hc, decodeCond_multiply hg h9, decodeMultiply_of_isUndefArith hwf]

theorem decode_encode_undefCompare {op : BitVec 2} {low : BitVec 20} (hwf : (Instr.undefCompare c op low).wf = true) :
    decode (encode (.undefCompare c op low)) = .undefCompare c op low := by
  refine decode_arm_of_fieldAt _ fun w h => ?_
  simp only [fieldAt_append] at h
  obtain ⟨⟨⟨⟨hc, hg⟩, rfl⟩, h20⟩, rfl⟩ := h
  rw [decodeArm_of_cond hc, decodeCond_misc hg (fieldAt_literal.mp h20).1 (getLsbD_seven_of_isUndefCompare hwf),
    decodeMisc_of_isUndefCompare hwf]

theorem decode_encode_tUndefMisc {op : BitVec 4} {low : BitVec 8} (hwf : (Instr.tUndefMisc op low).wf = true) :
    decode (encode (.tUndefMisc op low)) = .tUndefMisc op low := by
  refine decode_thumb_of_fieldAt _ fun h hfields => ?_
  simp only [fieldAt_append] at hfields
  obtain ⟨⟨hg, rfl⟩, rfl⟩ := hfields
  rw [FieldAt] at hg
  rw [decodeThumb, hg, ← decodeThumbMisc_of_isUndefMisc hwf]
  rfl

theorem decode_encode_tB1 {imm8 : BitVec 8} (hwf : (Instr.tB1 c imm8).wf = true) :
    decode (encode (.tB1 c imm8)) = .tB1 c imm8 := by
  refine decode_thumb_of_fieldAt _ fun h hfields => ?_
  simp only [fieldAt_append] at hfields
  obtain ⟨⟨hg, hc⟩, rfl⟩ := hfields
  rw [FieldAt] at hg hc
  have hbranch : decodeThumb h = decodeThumbBranch h := by
    rw [decodeThumb, hg]
    rfl
  rw [hbranch, decodeThumbBranch, hc, Cond.ofBits?_bits]
  cases c with
  | al => exact absurd hwf Bool.false_ne_true
  | _ => rfl

/-- MRS has should-be-zero bits where the other rows of its table have an operation. -/
theorem decode_encode_mrs {r : Bool} {sbo : BitVec 4} {rd : Reg} {sbz : BitVec 12}
    (hwf : (Instr.mrs c r sbo rd sbz).wf = true) : decode (encode (.mrs c r sbo rd sbz)) = .mrs c r sbo rd sbz := by
  refine decode_arm_of_fieldAt _ fun w h => ?_
  simp only [Instr.wf, Bool.and_eq_true, beq_iff_eq, BitVec.ofNat_eq_ofNat] at hwf
  obtain ⟨⟨-, rfl⟩, -⟩ := hwf
  simp only [fieldAt_append, fieldAt_ofBool] at h
  obtain ⟨⟨⟨⟨⟨⟨hc, hg⟩, rfl⟩, h20⟩, rfl⟩, rfl⟩, hsbz⟩ := h
  have hfield : w.extractLsb' 0 12 = 0#12 := hsbz
  simp +ground only [fieldAt_literal, fieldAt_nil] at h20 hsbz
  rw [decodeArm_of_cond hc, decodeCond_misc hg (by simp only [h20]) (by simp only [hsbz]), ← hfield]
  cases hr : w.getLsbD 22 <;>
    simp +ground only [decodeMisc, toNat_extract_succ, toNat_extract_zero, h20, hr, hsbz]

/-- MSR is any row of that table with bit 21 set and bit 4 clear. -/
theorem decode_encode_msrReg {r : Bool} {mask sbo sbzHi : BitVec 4} {sbzLo : BitVec 2} {rm : Reg} :
    decode (encode (.msrReg c r mask sbo sbzHi sbzLo rm)) = .msrReg c r mask sbo sbzHi sbzLo rm := by
  refine decode_arm_of_fieldAt _ fun w h => ?_
  simp only [fieldAt_append, fieldAt_ofBool] at h
  obtain ⟨⟨⟨⟨⟨⟨⟨⟨⟨⟨hc, hg⟩, rfl⟩, h20⟩, rfl⟩, rfl⟩, rfl⟩, h7⟩, rfl⟩, h4⟩, rfl⟩ := h
  simp +ground only [fieldAt_literal, fieldAt_nil] at h20 h7 h4
  rw [decodeArm_of_cond hc, decodeCond_misc hg (by simp only [h20]) (by simp only [h7])]
  cases hr : w.getLsbD 22 <;> cases h5 : w.getLsbD 5 <;> cases h6 : w.getLsbD 6 <;>
    simp +ground only [decodeMisc, toNat_extract_succ, toNat_extract_zero, h20, hr, h4, h5, h6]

/-! ### All rows -/

/-- The rows of a halfword. Bit 8 of PUSH and POP is a field of theirs and a bit of the decoder's table. -/
theorem decode_encode_thumb {i : Instr} (hi : isThumb i = true) (hwf : i.wf = true) : decode (encode i) = i := by
  cases i
  all_goals try exact absurd hi Bool.false_ne_true
  case tUndefMisc => exact decode_encode_tUndefMisc hwf
  case tB1 => exact decode_encode_tB1 hwf
  case' tPush r list => cases r
  case' tPop r list => cases r
  all_goals
    refine decode_thumb_of_fieldAt _ fun h hfields => ?_
    simp +ground only [↓fieldAt_append, ↓fieldAt_ofBool, ↓fieldAt_literal, ↓fieldAt_nil, FieldAt] at hfields
    simp +ground only [decodeThumb, decodeThumbShift, decodeThumbImm8, decodeThumbAlu, decodeThumbHigh, decodeThumbRegOffset,
      decodeThumbMisc, decodeThumbBranch, toNat_extract_succ, toNat_extract_zero, Cond.ofBits?, hfields, ↓reduceIte]

/-- The rows of a word. With the bits that the layout fixes known, the decoder's tests are closed terms, which `simp` computes. -/
theorem decode_encode_arm {i : Instr} (hi : isThumb i = false) (hwf : i.wf = true) : decode (encode i) = i := by
  cases i
  all_goals try exact absurd hi.symm Bool.false_ne_true
  case undefUncond => exact decode_encode_undefUncond hwf
  case undefArith => exact decode_encode_undefArith hwf
  case undefCompare => exact decode_encode_undefCompare hwf
  case mrs => exact decode_encode_mrs hwf
  case msrReg => exact decode_encode_msrReg
  case' strReg | ldrReg | strbReg | ldrbReg | strImm | ldrImm | strbImm | ldrbImm =>
    simp only [Instr.wf, wordRegOk, wordImmOk_iff, Bool.and_eq_true] at hwf
  case' ldc | stc | ldc2 | stc2 => simp only [Instr.wf, cpTransferOk, Bool.and_eq_true] at hwf
  all_goals
    refine decode_arm_of_fieldAt _ fun w hfields => ?_
    simp +ground only [↓fieldAt_append, ↓fieldAt_ofBool, ↓fieldAt_literal, ↓fieldAt_nil, FieldAt] at hfields
    simp +ground only [decodeArm, decodeUncond, decodeCond, decodeGroup0, decodeGroup1, decodeGroup2, decodeGroup3,
      decodeGroup4, decodeGroup5, decodeGroup6, decodeGroup7, decodeMultiply, decodeExtra, decodeDspMultiply, decodeMisc,
      decodeRegShift, decodeImmShift, decodeDpImm, toNat_extract_succ, toNat_extract_zero, extract_beq_literal,
      extract_beq_nil, BitVec.ofNat_eq_ofNat, Cond.ofBits?_bits, Cond.ofBits?_of_toNat, Shift.ofBits_bits, hwf, hfields,
      Bool.true_and, Bool.false_and, Bool.and_false, Bool.true_or, Bool.or_true, ↓reduceIte]

end

/-- Settles O1: the fields of the encoding lead the decoder to the instruction's row. -/
theorem decodingUndoesEncoding : Obligations.DecodingUndoesEncoding := by
  intro i hwf
  cases hi : isThumb i with
  | false => exact decode_encode_arm hi hwf
  | true => exact decode_encode_thumb hi hwf

end Sys2Proof
